-- ==== Sys2Proof/Word.lean ====
section
/-! DEFINITION. The plain types of the APU: bytes, command words, the two channels, the entries of a duty
pattern and the events of an accumulator port (spec 00_scope, 30_encoding R60, 43_mixer_output R186, R187). -/

namespace Sys2Proof

/-- One register byte (R44: the only access width). -/
abbrev Byte := BitVec 8

/-- One 18-bit command word (R60). -/
abbrev Command := BitVec 18

/-- The two pulse channels, numbered 1 and 2 (R4 `N_CHANNELS`). -/
inductive Chan where
  | one
  | two
deriving DecidableEq, Repr

/-- One entry of a duty pattern, -1 or +1 (R131). -/
inductive Polarity where
  | low
  | high
deriving DecidableEq, Repr

/-- An event the APU emits on one accumulator port (R186, R187). -/
inductive PortEvent where
  /-- `AddDelta(k, t, d)`: the level changes by `d` at tick `t` of the current frame (R186). -/
  | addDelta (tick : Nat) (delta : Int)
  /-- `EndFrame(k, t)`: the current frame closes at tick `t` (R187). -/
  | endFrame (tick : Nat)
deriving DecidableEq, Repr

end Sys2Proof
end

