-- ==== Sys2Proof/Syntax.lean ====
section
/-! DEFINITION. The instructions: one constructor per row of spec/opcode_table.json (spec 30_encoding R60, R73).
An out-of-range row carries the low bits of the offset that its mask leaves free. -/

namespace Sys2Proof

/-- The APU's operations, one constructor per row of the opcode table. -/
inductive Instr where
  /-- ADV: `ADVANCE(ticks)` (R172). -/
  | adv (ticks : Nat)
  /-- FLUSH: `FLUSH` (R185). -/
  | flush
  /-- RD.CH1_SWEEP: Read offset 0x00 (R91). -/
  | rdCh1Sweep
  /-- RD.CH1_DUTYLEN: Read offset 0x01 (R91). -/
  | rdCh1Dutylen
  /-- RD.CH1_ENV: Read offset 0x02 (R91). -/
  | rdCh1Env
  /-- RD.CH1_FREQLO: Read offset 0x03 (R91). -/
  | rdCh1Freqlo
  /-- RD.CH1_FREQHI: Read offset 0x04 (R91). -/
  | rdCh1Freqhi
  /-- RD.UNUSED_05: Read offset 0x05 (R91). -/
  | rdUnused05
  /-- RD.CH2_DUTYLEN: Read offset 0x06 (R91). -/
  | rdCh2Dutylen
  /-- RD.CH2_ENV: Read offset 0x07 (R91). -/
  | rdCh2Env
  /-- RD.CH2_FREQLO: Read offset 0x08 (R91). -/
  | rdCh2Freqlo
  /-- RD.CH2_FREQHI: Read offset 0x09 (R91). -/
  | rdCh2Freqhi
  /-- RD.UNUSED_0A: Read offset 0x0A (R91). -/
  | rdUnused0A
  /-- RD.UNUSED_0B: Read offset 0x0B (R91). -/
  | rdUnused0B
  /-- RD.UNUSED_0C: Read offset 0x0C (R91). -/
  | rdUnused0C
  /-- RD.UNUSED_0D: Read offset 0x0D (R91). -/
  | rdUnused0D
  /-- RD.UNUSED_0E: Read offset 0x0E (R91). -/
  | rdUnused0E
  /-- RD.UNUSED_0F: Read offset 0x0F (R91). -/
  | rdUnused0F
  /-- RD.UNUSED_10: Read offset 0x10 (R91). -/
  | rdUnused10
  /-- RD.UNUSED_11: Read offset 0x11 (R91). -/
  | rdUnused11
  /-- RD.UNUSED_12: Read offset 0x12 (R91). -/
  | rdUnused12
  /-- RD.UNUSED_13: Read offset 0x13 (R91). -/
  | rdUnused13
  /-- RD.MASTER_VOL: Read offset 0x14 (R91). -/
  | rdMasterVol
  /-- RD.ROUTING: Read offset 0x15 (R91). -/
  | rdRouting
  /-- RD.POWER_STATUS: Read offset 0x16 (R92). -/
  | rdPowerStatus
  /-- RD.OOR: Read an offset outside the block, 0x17 (R93). -/
  | rdOor17
  /-- RD.OOR: Read an offset outside the block, 0x18 to 0x1F (R93). -/
  | rdOor18 (lo : BitVec 3)
  /-- RD.OOR: Read an offset outside the block, 0x20 to 0x3F (R93). -/
  | rdOor20 (lo : BitVec 5)
  /-- RD.OOR: Read an offset outside the block, 0x40 to 0x7F (R93). -/
  | rdOor40 (lo : BitVec 6)
  /-- RD.OOR: Read an offset outside the block, 0x80 to 0xFF (R93). -/
  | rdOor80 (lo : BitVec 7)
  /-- WR.CH1_SWEEP: Write offset 0x00 (R96). -/
  | wrCh1Sweep (v : Byte)
  /-- WR.CH1_DUTYLEN: Write offset 0x01 (R97). -/
  | wrCh1Dutylen (v : Byte)
  /-- WR.CH1_ENV: Write offset 0x02 (R98). -/
  | wrCh1Env (v : Byte)
  /-- WR.CH1_FREQLO: Write offset 0x03 (R99). -/
  | wrCh1Freqlo (v : Byte)
  /-- WR.CH1_FREQHI: Write offset 0x04, bit 7 of the byte clear (R100). -/
  | wrCh1Freqhi (v : Byte)
  /-- WR.CH1_FREQHI.TRIG: Write offset 0x04, bit 7 of the byte set: the trigger (R101). -/
  | wrCh1FreqhiTrig (v : Byte)
  /-- WR.UNUSED_05: Write offset 0x05 (R104). -/
  | wrUnused05 (v : Byte)
  /-- WR.CH2_DUTYLEN: Write offset 0x06 (R97). -/
  | wrCh2Dutylen (v : Byte)
  /-- WR.CH2_ENV: Write offset 0x07 (R98). -/
  | wrCh2Env (v : Byte)
  /-- WR.CH2_FREQLO: Write offset 0x08 (R99). -/
  | wrCh2Freqlo (v : Byte)
  /-- WR.CH2_FREQHI: Write offset 0x09, bit 7 of the byte clear (R100). -/
  | wrCh2Freqhi (v : Byte)
  /-- WR.CH2_FREQHI.TRIG: Write offset 0x09, bit 7 of the byte set: the trigger (R101). -/
  | wrCh2FreqhiTrig (v : Byte)
  /-- WR.UNUSED_0A: Write offset 0x0A (R104). -/
  | wrUnused0A (v : Byte)
  /-- WR.UNUSED_0B: Write offset 0x0B (R104). -/
  | wrUnused0B (v : Byte)
  /-- WR.UNUSED_0C: Write offset 0x0C (R104). -/
  | wrUnused0C (v : Byte)
  /-- WR.UNUSED_0D: Write offset 0x0D (R104). -/
  | wrUnused0D (v : Byte)
  /-- WR.UNUSED_0E: Write offset 0x0E (R104). -/
  | wrUnused0E (v : Byte)
  /-- WR.UNUSED_0F: Write offset 0x0F (R104). -/
  | wrUnused0F (v : Byte)
  /-- WR.UNUSED_10: Write offset 0x10 (R104). -/
  | wrUnused10 (v : Byte)
  /-- WR.UNUSED_11: Write offset 0x11 (R104). -/
  | wrUnused11 (v : Byte)
  /-- WR.UNUSED_12: Write offset 0x12 (R104). -/
  | wrUnused12 (v : Byte)
  /-- WR.UNUSED_13: Write offset 0x13 (R104). -/
  | wrUnused13 (v : Byte)
  /-- WR.MASTER_VOL: Write offset 0x14 (R102). -/
  | wrMasterVol (v : Byte)
  /-- WR.ROUTING: Write offset 0x15 (R103). -/
  | wrRouting (v : Byte)
  /-- WR.POWER_STATUS: Write offset 0x16 (R105). -/
  | wrPowerStatus (v : Byte)
  /-- WR.OOR: Write an offset outside the block, 0x17 (R106). -/
  | wrOor17 (v : Byte)
  /-- WR.OOR: Write an offset outside the block, 0x18 to 0x1F (R106). -/
  | wrOor18 (lo : BitVec 3) (v : Byte)
  /-- WR.OOR: Write an offset outside the block, 0x20 to 0x3F (R106). -/
  | wrOor20 (lo : BitVec 5) (v : Byte)
  /-- WR.OOR: Write an offset outside the block, 0x40 to 0x7F (R106). -/
  | wrOor40 (lo : BitVec 6) (v : Byte)
  /-- WR.OOR: Write an offset outside the block, 0x80 to 0xFF (R106). -/
  | wrOor80 (lo : BitVec 7) (v : Byte)
deriving DecidableEq, Repr

end Sys2Proof
end

