-- ==== Sys2Proof/WellFormed.lean ====
section
/-! DEFINITION. Which instructions the command word can hold (spec 30_encoding R60: TICKS is 16 bits; R73: bit 7
of the byte selects the plain or the trigger form of a frequency-high write). -/

namespace Sys2Proof

/-- An instruction whose operands fit its row of the opcode table. -/
def Instr.wellFormed : Instr → Bool
  | .adv ticks => decide (ticks ≤ 65535)
  | .flush => true
  | .rdCh1Sweep => true
  | .rdCh1Dutylen => true
  | .rdCh1Env => true
  | .rdCh1Freqlo => true
  | .rdCh1Freqhi => true
  | .rdUnused05 => true
  | .rdCh2Dutylen => true
  | .rdCh2Env => true
  | .rdCh2Freqlo => true
  | .rdCh2Freqhi => true
  | .rdUnused0A => true
  | .rdUnused0B => true
  | .rdUnused0C => true
  | .rdUnused0D => true
  | .rdUnused0E => true
  | .rdUnused0F => true
  | .rdUnused10 => true
  | .rdUnused11 => true
  | .rdUnused12 => true
  | .rdUnused13 => true
  | .rdMasterVol => true
  | .rdRouting => true
  | .rdPowerStatus => true
  | .rdOor17 => true
  | .rdOor18 _ => true
  | .rdOor20 _ => true
  | .rdOor40 _ => true
  | .rdOor80 _ => true
  | .wrCh1Sweep _ => true
  | .wrCh1Dutylen _ => true
  | .wrCh1Env _ => true
  | .wrCh1Freqlo _ => true
  | .wrCh1Freqhi v => !v.getLsbD 7
  | .wrCh1FreqhiTrig v => v.getLsbD 7
  | .wrUnused05 _ => true
  | .wrCh2Dutylen _ => true
  | .wrCh2Env _ => true
  | .wrCh2Freqlo _ => true
  | .wrCh2Freqhi v => !v.getLsbD 7
  | .wrCh2FreqhiTrig v => v.getLsbD 7
  | .wrUnused0A _ => true
  | .wrUnused0B _ => true
  | .wrUnused0C _ => true
  | .wrUnused0D _ => true
  | .wrUnused0E _ => true
  | .wrUnused0F _ => true
  | .wrUnused10 _ => true
  | .wrUnused11 _ => true
  | .wrUnused12 _ => true
  | .wrUnused13 _ => true
  | .wrMasterVol _ => true
  | .wrRouting _ => true
  | .wrPowerStatus _ => true
  | .wrOor17 _ => true
  | .wrOor18 _ _ => true
  | .wrOor20 _ _ => true
  | .wrOor40 _ _ => true
  | .wrOor80 _ _ => true

end Sys2Proof
end

