-- ==== Sys2Proof/Decode.lean ====
section
/-! DEFINITION. The command word: the opcode table as data, the decoder (total: R74 makes every one of the 2^18
words an operation), the encoder, and the byte layout used where a word is stored (spec 30_encoding R60, R73). -/

namespace Sys2Proof

/-- One row of spec/opcode_table.json: a word belongs to it when its masked bits equal the match. -/
structure OpcodeRow where
  mnemonic : String
  matchBits : Command
  maskBits : Command
deriving DecidableEq, Repr

/-- The word belongs to the row. -/
def OpcodeRow.accepts (r : OpcodeRow) (w : Command) : Bool := w &&& r.maskBits == r.matchBits

/-- The opcode table's row of each instruction, match and mask as the table writes them. -/
def Instr.row : Instr → OpcodeRow
  | .adv _ => ⟨"ADV", 0x20000, 0x30000⟩
  | .flush => ⟨"FLUSH", 0x30000, 0x30000⟩
  | .rdCh1Sweep => ⟨"RD.CH1_SWEEP", 0x00000, 0x3FF00⟩
  | .rdCh1Dutylen => ⟨"RD.CH1_DUTYLEN", 0x00100, 0x3FF00⟩
  | .rdCh1Env => ⟨"RD.CH1_ENV", 0x00200, 0x3FF00⟩
  | .rdCh1Freqlo => ⟨"RD.CH1_FREQLO", 0x00300, 0x3FF00⟩
  | .rdCh1Freqhi => ⟨"RD.CH1_FREQHI", 0x00400, 0x3FF00⟩
  | .rdUnused05 => ⟨"RD.UNUSED_05", 0x00500, 0x3FF00⟩
  | .rdCh2Dutylen => ⟨"RD.CH2_DUTYLEN", 0x00600, 0x3FF00⟩
  | .rdCh2Env => ⟨"RD.CH2_ENV", 0x00700, 0x3FF00⟩
  | .rdCh2Freqlo => ⟨"RD.CH2_FREQLO", 0x00800, 0x3FF00⟩
  | .rdCh2Freqhi => ⟨"RD.CH2_FREQHI", 0x00900, 0x3FF00⟩
  | .rdUnused0A => ⟨"RD.UNUSED_0A", 0x00A00, 0x3FF00⟩
  | .rdUnused0B => ⟨"RD.UNUSED_0B", 0x00B00, 0x3FF00⟩
  | .rdUnused0C => ⟨"RD.UNUSED_0C", 0x00C00, 0x3FF00⟩
  | .rdUnused0D => ⟨"RD.UNUSED_0D", 0x00D00, 0x3FF00⟩
  | .rdUnused0E => ⟨"RD.UNUSED_0E", 0x00E00, 0x3FF00⟩
  | .rdUnused0F => ⟨"RD.UNUSED_0F", 0x00F00, 0x3FF00⟩
  | .rdUnused10 => ⟨"RD.UNUSED_10", 0x01000, 0x3FF00⟩
  | .rdUnused11 => ⟨"RD.UNUSED_11", 0x01100, 0x3FF00⟩
  | .rdUnused12 => ⟨"RD.UNUSED_12", 0x01200, 0x3FF00⟩
  | .rdUnused13 => ⟨"RD.UNUSED_13", 0x01300, 0x3FF00⟩
  | .rdMasterVol => ⟨"RD.MASTER_VOL", 0x01400, 0x3FF00⟩
  | .rdRouting => ⟨"RD.ROUTING", 0x01500, 0x3FF00⟩
  | .rdPowerStatus => ⟨"RD.POWER_STATUS", 0x01600, 0x3FF00⟩
  | .rdOor17 => ⟨"RD.OOR", 0x01700, 0x3FF00⟩
  | .rdOor18 _ => ⟨"RD.OOR", 0x01800, 0x3F800⟩
  | .rdOor20 _ => ⟨"RD.OOR", 0x02000, 0x3E000⟩
  | .rdOor40 _ => ⟨"RD.OOR", 0x04000, 0x3C000⟩
  | .rdOor80 _ => ⟨"RD.OOR", 0x08000, 0x38000⟩
  | .wrCh1Sweep _ => ⟨"WR.CH1_SWEEP", 0x10000, 0x3FF00⟩
  | .wrCh1Dutylen _ => ⟨"WR.CH1_DUTYLEN", 0x10100, 0x3FF00⟩
  | .wrCh1Env _ => ⟨"WR.CH1_ENV", 0x10200, 0x3FF00⟩
  | .wrCh1Freqlo _ => ⟨"WR.CH1_FREQLO", 0x10300, 0x3FF00⟩
  | .wrCh1Freqhi _ => ⟨"WR.CH1_FREQHI", 0x10400, 0x3FF80⟩
  | .wrCh1FreqhiTrig _ => ⟨"WR.CH1_FREQHI.TRIG", 0x10480, 0x3FF80⟩
  | .wrUnused05 _ => ⟨"WR.UNUSED_05", 0x10500, 0x3FF00⟩
  | .wrCh2Dutylen _ => ⟨"WR.CH2_DUTYLEN", 0x10600, 0x3FF00⟩
  | .wrCh2Env _ => ⟨"WR.CH2_ENV", 0x10700, 0x3FF00⟩
  | .wrCh2Freqlo _ => ⟨"WR.CH2_FREQLO", 0x10800, 0x3FF00⟩
  | .wrCh2Freqhi _ => ⟨"WR.CH2_FREQHI", 0x10900, 0x3FF80⟩
  | .wrCh2FreqhiTrig _ => ⟨"WR.CH2_FREQHI.TRIG", 0x10980, 0x3FF80⟩
  | .wrUnused0A _ => ⟨"WR.UNUSED_0A", 0x10A00, 0x3FF00⟩
  | .wrUnused0B _ => ⟨"WR.UNUSED_0B", 0x10B00, 0x3FF00⟩
  | .wrUnused0C _ => ⟨"WR.UNUSED_0C", 0x10C00, 0x3FF00⟩
  | .wrUnused0D _ => ⟨"WR.UNUSED_0D", 0x10D00, 0x3FF00⟩
  | .wrUnused0E _ => ⟨"WR.UNUSED_0E", 0x10E00, 0x3FF00⟩
  | .wrUnused0F _ => ⟨"WR.UNUSED_0F", 0x10F00, 0x3FF00⟩
  | .wrUnused10 _ => ⟨"WR.UNUSED_10", 0x11000, 0x3FF00⟩
  | .wrUnused11 _ => ⟨"WR.UNUSED_11", 0x11100, 0x3FF00⟩
  | .wrUnused12 _ => ⟨"WR.UNUSED_12", 0x11200, 0x3FF00⟩
  | .wrUnused13 _ => ⟨"WR.UNUSED_13", 0x11300, 0x3FF00⟩
  | .wrMasterVol _ => ⟨"WR.MASTER_VOL", 0x11400, 0x3FF00⟩
  | .wrRouting _ => ⟨"WR.ROUTING", 0x11500, 0x3FF00⟩
  | .wrPowerStatus _ => ⟨"WR.POWER_STATUS", 0x11600, 0x3FF00⟩
  | .wrOor17 _ => ⟨"WR.OOR", 0x11700, 0x3FF00⟩
  | .wrOor18 _ _ => ⟨"WR.OOR", 0x11800, 0x3F800⟩
  | .wrOor20 _ _ => ⟨"WR.OOR", 0x12000, 0x3E000⟩
  | .wrOor40 _ _ => ⟨"WR.OOR", 0x14000, 0x3C000⟩
  | .wrOor80 _ _ => ⟨"WR.OOR", 0x18000, 0x38000⟩

/-- The three fields of a command word: `OP` in bits 17:16, `OFF` in 15:8, `DATA` in 7:0 (R60). -/
def packWord (op : BitVec 2) (off data : Byte) : Command := op ++ off ++ data

/-- The word of an `ADVANCE` of `ticks` (R60: `TICKS` in bits 15:0). -/
def packAdvance (ticks : Nat) : Command := 2#2 ++ BitVec.ofNat 16 ticks

/-- The operation a `READ` of offset `off` is (R73 step 3). -/
def decodeRead (off : Byte) : Instr :=
  match off.toNat with
  | 0x00 => .rdCh1Sweep
  | 0x01 => .rdCh1Dutylen
  | 0x02 => .rdCh1Env
  | 0x03 => .rdCh1Freqlo
  | 0x04 => .rdCh1Freqhi
  | 0x05 => .rdUnused05
  | 0x06 => .rdCh2Dutylen
  | 0x07 => .rdCh2Env
  | 0x08 => .rdCh2Freqlo
  | 0x09 => .rdCh2Freqhi
  | 0x0A => .rdUnused0A
  | 0x0B => .rdUnused0B
  | 0x0C => .rdUnused0C
  | 0x0D => .rdUnused0D
  | 0x0E => .rdUnused0E
  | 0x0F => .rdUnused0F
  | 0x10 => .rdUnused10
  | 0x11 => .rdUnused11
  | 0x12 => .rdUnused12
  | 0x13 => .rdUnused13
  | 0x14 => .rdMasterVol
  | 0x15 => .rdRouting
  | 0x16 => .rdPowerStatus
  | 0x17 => .rdOor17
  | n =>
    if n < 0x20 then .rdOor18 (off.setWidth 3)
    else if n < 0x40 then .rdOor20 (off.setWidth 5)
    else if n < 0x80 then .rdOor40 (off.setWidth 6)
    else .rdOor80 (off.setWidth 7)

/-- The operation a `WRITE` of `v` to offset `off` is (R73 step 4). -/
def decodeWrite (off v : Byte) : Instr :=
  match off.toNat with
  | 0x00 => .wrCh1Sweep v
  | 0x01 => .wrCh1Dutylen v
  | 0x02 => .wrCh1Env v
  | 0x03 => .wrCh1Freqlo v
  | 0x04 => if v.getLsbD 7 then .wrCh1FreqhiTrig v else .wrCh1Freqhi v
  | 0x05 => .wrUnused05 v
  | 0x06 => .wrCh2Dutylen v
  | 0x07 => .wrCh2Env v
  | 0x08 => .wrCh2Freqlo v
  | 0x09 => if v.getLsbD 7 then .wrCh2FreqhiTrig v else .wrCh2Freqhi v
  | 0x0A => .wrUnused0A v
  | 0x0B => .wrUnused0B v
  | 0x0C => .wrUnused0C v
  | 0x0D => .wrUnused0D v
  | 0x0E => .wrUnused0E v
  | 0x0F => .wrUnused0F v
  | 0x10 => .wrUnused10 v
  | 0x11 => .wrUnused11 v
  | 0x12 => .wrUnused12 v
  | 0x13 => .wrUnused13 v
  | 0x14 => .wrMasterVol v
  | 0x15 => .wrRouting v
  | 0x16 => .wrPowerStatus v
  | 0x17 => .wrOor17 v
  | n =>
    if n < 0x20 then .wrOor18 (off.setWidth 3) v
    else if n < 0x40 then .wrOor20 (off.setWidth 5) v
    else if n < 0x80 then .wrOor40 (off.setWidth 6) v
    else .wrOor80 (off.setWidth 7) v

/-- The decoder (R73), total on the 18-bit words (R74). The bits R60 calls ignored play no part. -/
def decode (w : Command) : Instr :=
  match (w.extractLsb' 16 2).toNat with
  | 0 => decodeRead (w.extractLsb' 8 8)
  | 1 => decodeWrite (w.extractLsb' 8 8) (w.extractLsb' 0 8)
  | 2 => .adv (w.extractLsb' 0 16).toNat
  | _ => .flush

/-- Why bytes hold no command word. -/
inductive DecodeReject where
  /-- Fewer than three bytes are left. -/
  | tooFewBytes
  /-- A bit above bit 17 is set: the command word has 18 bits (R60). -/
  | highBitsSet
deriving DecidableEq, Repr

/-- The command word stored in the first three bytes, the byte with bits 7:0 first (log 13), and the rest. -/
def wordOfBytes : List Byte → Except DecodeReject (Command × List Byte)
  | b0 :: b1 :: b2 :: rest =>
    let w := b0.toNat + 256 * b1.toNat + 65536 * b2.toNat
    if w < 2 ^ 18 then .ok (BitVec.ofNat 18 w, rest) else .error .highBitsSet
  | _ => .error .tooFewBytes

/-- Decoding stored bytes: the instruction and the rest, or a rejection by name. -/
def decodeBytes (bs : List Byte) : Except DecodeReject (Instr × List Byte) :=
  match wordOfBytes bs with
  | .ok (w, rest) => .ok (decode w, rest)
  | .error r => .error r

/-- The command word of an instruction, ignored bits written as 0 (R60). -/
def encode : Instr → Command
  | .adv ticks => packAdvance ticks
  | .flush => packWord 3#2 0#8 0#8
  | .rdCh1Sweep => packWord 0#2 0x00#8 0#8
  | .rdCh1Dutylen => packWord 0#2 0x01#8 0#8
  | .rdCh1Env => packWord 0#2 0x02#8 0#8
  | .rdCh1Freqlo => packWord 0#2 0x03#8 0#8
  | .rdCh1Freqhi => packWord 0#2 0x04#8 0#8
  | .rdUnused05 => packWord 0#2 0x05#8 0#8
  | .rdCh2Dutylen => packWord 0#2 0x06#8 0#8
  | .rdCh2Env => packWord 0#2 0x07#8 0#8
  | .rdCh2Freqlo => packWord 0#2 0x08#8 0#8
  | .rdCh2Freqhi => packWord 0#2 0x09#8 0#8
  | .rdUnused0A => packWord 0#2 0x0A#8 0#8
  | .rdUnused0B => packWord 0#2 0x0B#8 0#8
  | .rdUnused0C => packWord 0#2 0x0C#8 0#8
  | .rdUnused0D => packWord 0#2 0x0D#8 0#8
  | .rdUnused0E => packWord 0#2 0x0E#8 0#8
  | .rdUnused0F => packWord 0#2 0x0F#8 0#8
  | .rdUnused10 => packWord 0#2 0x10#8 0#8
  | .rdUnused11 => packWord 0#2 0x11#8 0#8
  | .rdUnused12 => packWord 0#2 0x12#8 0#8
  | .rdUnused13 => packWord 0#2 0x13#8 0#8
  | .rdMasterVol => packWord 0#2 0x14#8 0#8
  | .rdRouting => packWord 0#2 0x15#8 0#8
  | .rdPowerStatus => packWord 0#2 0x16#8 0#8
  | .rdOor17 => packWord 0#2 0x17#8 0#8
  | .rdOor18 lo => packWord 0#2 (3#5 ++ lo) 0#8
  | .rdOor20 lo => packWord 0#2 (1#3 ++ lo) 0#8
  | .rdOor40 lo => packWord 0#2 (1#2 ++ lo) 0#8
  | .rdOor80 lo => packWord 0#2 (1#1 ++ lo) 0#8
  | .wrCh1Sweep v => packWord 1#2 0x00#8 v
  | .wrCh1Dutylen v => packWord 1#2 0x01#8 v
  | .wrCh1Env v => packWord 1#2 0x02#8 v
  | .wrCh1Freqlo v => packWord 1#2 0x03#8 v
  | .wrCh1Freqhi v => packWord 1#2 0x04#8 v
  | .wrCh1FreqhiTrig v => packWord 1#2 0x04#8 v
  | .wrUnused05 v => packWord 1#2 0x05#8 v
  | .wrCh2Dutylen v => packWord 1#2 0x06#8 v
  | .wrCh2Env v => packWord 1#2 0x07#8 v
  | .wrCh2Freqlo v => packWord 1#2 0x08#8 v
  | .wrCh2Freqhi v => packWord 1#2 0x09#8 v
  | .wrCh2FreqhiTrig v => packWord 1#2 0x09#8 v
  | .wrUnused0A v => packWord 1#2 0x0A#8 v
  | .wrUnused0B v => packWord 1#2 0x0B#8 v
  | .wrUnused0C v => packWord 1#2 0x0C#8 v
  | .wrUnused0D v => packWord 1#2 0x0D#8 v
  | .wrUnused0E v => packWord 1#2 0x0E#8 v
  | .wrUnused0F v => packWord 1#2 0x0F#8 v
  | .wrUnused10 v => packWord 1#2 0x10#8 v
  | .wrUnused11 v => packWord 1#2 0x11#8 v
  | .wrUnused12 v => packWord 1#2 0x12#8 v
  | .wrUnused13 v => packWord 1#2 0x13#8 v
  | .wrMasterVol v => packWord 1#2 0x14#8 v
  | .wrRouting v => packWord 1#2 0x15#8 v
  | .wrPowerStatus v => packWord 1#2 0x16#8 v
  | .wrOor17 v => packWord 1#2 0x17#8 v
  | .wrOor18 lo v => packWord 1#2 (3#5 ++ lo) v
  | .wrOor20 lo v => packWord 1#2 (1#3 ++ lo) v
  | .wrOor40 lo v => packWord 1#2 (1#2 ++ lo) v
  | .wrOor80 lo v => packWord 1#2 (1#1 ++ lo) v

/-- A word's three stored bytes (log 13). -/
def bytesOfWord (w : Command) : List Byte :=
  [w.extractLsb' 0 8, w.extractLsb' 8 8, (w.extractLsb' 16 2).setWidth 8]

/-- The word whose low `nbits` bits are those of `w`, every bit above them 0, as three stored bytes. -/
def tableBytes (nbits w : Nat) : List Byte :=
  let n := w % 2 ^ nbits
  [BitVec.ofNat 8 n, BitVec.ofNat 8 (n / 256), BitVec.ofNat 8 (n / 65536)]

/-- The instruction the decoder reads from an instruction whose bits are `w`, as the opcode table numbers them. -/
def decodeTableWord (nbits w : Nat) : Option Instr :=
  if w % 2 ^ nbits < 2 ^ 24 then
    match decodeBytes (tableBytes nbits w) with
    | .ok (i, _) => some i
    | .error _ => none
  else none

end Sys2Proof
end

