-- ==== Sys2Proof/Config.lean ====
section
/-! DEFINITION. The parameters of the APU (spec 00_scope R4, R5; 10_state R28): fixed for a run and no part of
State. Where R5 writes OPEN the machine's value is an opaque constant; where R5 gives a default, it is that. -/

namespace Sys2Proof

/-- The reference clock in Hz (R4 `CLOCK_HZ`): one tick is one period of it. -/
abbrev clockHz : Nat := 4194304

/-- Ticks between two sequencer ticks (R4 `SEQ_PERIOD`). -/
abbrev seqPeriod : Nat := 16384

/-- The parameters R5 leaves open. A bound "at least 1" is built in: the field holds one less. -/
structure Config where
  /-- `BASE`, the address of offset 0x00 (R41). -/
  base : Nat
  /-- `OUTPUT_PERIOD` minus one (R5: at least 1). -/
  outputPeriodLessOne : Nat
  /-- `CHUNK` minus one (R5: at least 1). -/
  chunkLessOne : Nat
  /-- `PATTERN[0]` (R131). -/
  pattern0 : Vector Polarity 8
  /-- `PATTERN[1]` (R131). -/
  pattern1 : Vector Polarity 8
  /-- `PATTERN[3]` (R131). -/
  pattern3 : Vector Polarity 8
  /-- `LEFT_IS_HIGH` (R68, R69). -/
  leftIsHigh : Bool
  /-- How many samples an `EndFrame` makes available, from the ticks of every `EndFrame` the port has received,
  that one included (R189 a: never from the deltas). -/
  frameSampleCount : List Nat → Nat
  /-- The value of the i-th sample an `EndFrame` makes available, from the port's event history up to that
  `EndFrame` (R189 b: the same function for both ports). -/
  sampleValue : List PortEvent → Nat → Rat
  /-- `RoundSample` (R195). -/
  roundSample : Rat → Rat

/-- `OUTPUT_PERIOD`, in ticks, at least 1 (R5). -/
abbrev Config.outputPeriod (c : Config) : Nat := c.outputPeriodLessOne + 1

/-- `CHUNK`, in samples, at least 1 (R5). -/
abbrev Config.chunk (c : Config) : Nat := c.chunkLessOne + 1

/-- `PATTERN[2]`, fixed by the source (R4). -/
def patternTwo : Vector Polarity 8 := #v[.low, .low, .high, .high, .high, .high, .low, .low]

/-- OPEN (R5, D5): the block's base address. -/
opaque Config.openBase : Nat
/-- OPEN (R5, D27): the output period minus one. -/
opaque Config.openOutputPeriodLessOne : Nat
/-- OPEN (R5, D29): the chunk size minus one. -/
opaque Config.openChunkLessOne : Nat
/-- OPEN (R5, D30): the sample count per frame of accumulators that run at a clock rate in Hz (R189 a). -/
opaque Config.openFrameSampleCount (clock : Nat) : List Nat → Nat
/-- OPEN (R5, D30): the sample values of accumulators that run at a clock rate in Hz (R189 b). -/
opaque Config.openSampleValue (clock : Nat) : List PortEvent → Nat → Rat

/-- The machine's parameters: R5's defaults where R5 has one (the pattern rows of R131, `LEFT_IS_HIGH = true`,
`RoundSample` the identity), opaque constants where R5 writes OPEN. Both accumulators run at the reference clock
(R189 a, R232). -/
def Config.machine : Config where
  base := Config.openBase
  outputPeriodLessOne := Config.openOutputPeriodLessOne
  chunkLessOne := Config.openChunkLessOne
  pattern0 := #v[.low, .low, .low, .low, .high, .low, .low, .low]
  pattern1 := #v[.low, .low, .low, .low, .high, .high, .low, .low]
  pattern3 := #v[.high, .high, .high, .high, .low, .low, .high, .high]
  leftIsHigh := true
  frameSampleCount := Config.openFrameSampleCount clockHz
  sampleValue := Config.openSampleValue clockHz
  roundSample := id

end Sys2Proof
end

