-- ==== Sys2Proof/Machine/State.lean ====
section
/-! DEFINITION. The state of the APU as plain data, why a step can stop, and the state after reset
(spec 10_state R12 to R27). Field widths are those of the tables of R12, R14, R16 and R19. -/

namespace Sys2Proof.Machine

/-- Direction of an envelope (R12). -/
inductive EnvDirection where
  | inc
  | dec
deriving DecidableEq, Repr

/-- Direction of the sweep (R14). -/
inductive SweepDirection where
  | add
  | sub
deriving DecidableEq, Repr

/-- A volume envelope, `CH[k].env` (R12). -/
structure Envelope where
  period : BitVec 3
  direction : EnvDirection
  delay : BitVec 3
  initialVolume : BitVec 4
  volume : BitVec 4
deriving DecidableEq, Repr

/-- The frequency sweep of channel 1, `SW` (R14). The range of `shadowFrequency` is 0 to 2048. -/
structure Sweep where
  shadowFrequency : BitVec 12
  delay : BitVec 3
  period : BitVec 3
  shift : BitVec 3
  direction : SweepDirection
deriving DecidableEq, Repr

/-- A pulse channel, `CH[k]` (R16). Ranges: `length` 0 to 64, `frequency` 0 to 2048, `period` and `delay` 0 to
8192, `lastAmp` -15 to +15. -/
structure Channel where
  enabled : Bool
  duty : BitVec 2
  phase : BitVec 3
  length : BitVec 7
  lengthEnabled : Bool
  frequency : BitVec 12
  period : BitVec 14
  lastAmp : Int
  delay : BitVec 14
  env : Envelope
deriving DecidableEq, Repr

/-- The history of one accumulator port, `ACC[k]` (R25): the events emitted, oldest first, and the number of
samples already read. -/
structure Port where
  events : List PortEvent
  samplesRead : Nat
deriving DecidableEq, Repr

/-- A chunk delivered to the sink: stereo pairs (left, right) in time order (R190). -/
abbrev Chunk := List (Rat × Rat)

/-- The register block's bytes as (offset, byte) pairs in canonical form (`Memory.wf`); an unlisted offset holds
`Memory.unlisted`. -/
abbrev Memory := List Host.Cell

/-- What an offset no write has reached reads as: 0x00, the reset value of every shadow byte (R27). -/
def Memory.unlisted : Byte := 0x00#8

/-- The state of the APU (R19), with the environment's histories (R6, R25) and the host's pending commands. -/
structure State where
  /-- `powered_on` (R19). -/
  poweredOn : Bool
  /-- `register_shadow`, offsets 0x00 to 0x16 (R21). -/
  shadow : Memory
  /-- `virtual_time`, in ticks (R19, D25). -/
  virtualTime : Nat
  /-- `prev_flush_time` (R19). -/
  prevFlushTime : Nat
  /-- `next_sequencer_tick` (R19). -/
  nextSequencerTick : Nat
  /-- `sequencer_phase` (R19). -/
  sequencerPhase : BitVec 2
  /-- `CH[1]` (R16). -/
  ch1 : Channel
  /-- `CH[2]` (R16). -/
  ch2 : Channel
  /-- `SW` (R14). -/
  sweep : Sweep
  /-- `master_volume_left` (R19). -/
  masterVolumeLeft : BitVec 3
  /-- `master_volume_right` (R19). -/
  masterVolumeRight : BitVec 3
  /-- `faulted` (R26). -/
  faulted : Bool
  /-- `ACC[1]` (R25). -/
  acc1 : Port
  /-- `ACC[2]` (R25). -/
  acc2 : Port
  /-- `SINK.chunks`, oldest first (R25). -/
  sinkChunks : List Chunk
  /-- The values `READ` has returned, oldest first (R6; log 3). -/
  readResults : List Byte
  /-- MODEL's own (DESIGN CHOICE, log 1): the command words the host has issued and no step has taken, next first. -/
  commands : List Command
deriving DecidableEq, Repr

/-- Why the machine stops with a fault. -/
inductive Fault where
  /-- `MixLengthMismatch(n1, n2)` (R210), raised by a due `FLUSH` alone; `stopped` is the state it leaves (R213).
  Safe: the spec names the fault and gives it no successor (R214). -/
  | mixLengthMismatch (n1 n2 : Nat) (stopped : State)
deriving DecidableEq, Repr

/-- The fault's code (R210, D31). -/
def Fault.code : Fault → Nat
  | .mixLengthMismatch _ _ _ => 1

/-- Why an operation is given no meaning. -/
inductive Refusal where
  /-- Raised by `exec` for an instruction without a meaning. Safe: nothing follows from it. -/
  | notModelled (mnemonic : String)
  /-- Raised by every operation issued after the fault (R214, U11). Safe: the spec gives it no meaning. -/
  | afterFault
deriving DecidableEq, Repr

/-- An envelope after reset (R27). -/
def Envelope.reset : Envelope where
  period := 0
  direction := .dec
  delay := 0
  initialVolume := 0
  volume := 0

/-- The sweep after reset (R27). -/
def Sweep.reset : Sweep where
  shadowFrequency := 0
  delay := 0
  period := 0
  shift := 0
  direction := .add

/-- A channel after reset (R27). -/
def Channel.reset : Channel where
  enabled := false
  duty := 0
  phase := 0
  length := 0
  lengthEnabled := false
  frequency := 0
  period := 8192
  lastAmp := 0
  delay := 0
  env := Envelope.reset

/-- A port after reset: nothing emitted, nothing read (R27, R231). -/
def Port.reset : Port where
  events := []
  samplesRead := 0

/-- The machine right after reset (R27, R231). -/
def State.reset : State where
  poweredOn := false
  shadow := []
  virtualTime := 0
  prevFlushTime := 0
  nextSequencerTick := 16384
  sequencerPhase := 0
  ch1 := Channel.reset
  ch2 := Channel.reset
  sweep := Sweep.reset
  masterVolumeLeft := 0
  masterVolumeRight := 0
  faulted := false
  acc1 := Port.reset
  acc2 := Port.reset
  sinkChunks := []
  readResults := []
  commands := []

end Sys2Proof.Machine
end

