-- ==== Sys2Proof/Machine/Operands.lean ====
section
/-! DEFINITION. The operand forms: the fields of each register byte (spec 30_encoding R63 to R70), the assembly
of the frequency from its two bytes (R71), the length load (R72), and the absolute address (20_memory R41). -/

namespace Sys2Proof.Machine

/-- `v[6:4]` of `CH1_SWEEP` (R63). -/
def sweepPeriodField (v : Byte) : BitVec 3 := v.extractLsb' 4 3

/-- `v[3]` of `CH1_SWEEP`: 1 is `SUB`, 0 is `ADD` (R63). -/
def sweepDirectionField (v : Byte) : SweepDirection := if v.getLsbD 3 then .sub else .add

/-- `v[2:0]` of `CH1_SWEEP` (R63). -/
def sweepShiftField (v : Byte) : BitVec 3 := v.extractLsb' 0 3

/-- `v[7:6]` of `CHk_DUTYLEN` (R64). -/
def dutyField (v : Byte) : BitVec 2 := v.extractLsb' 6 2

/-- `zext_7(v[5:0])` of `CHk_DUTYLEN` (R64, R72). -/
def lengthLoad (v : Byte) : BitVec 7 := (v.extractLsb' 0 6).setWidth 7

/-- `v[7:4]` of `CHk_ENV` (R65). -/
def initialVolumeField (v : Byte) : BitVec 4 := v.extractLsb' 4 4

/-- `v[3]` of `CHk_ENV`: 1 is `INC`, 0 is `DEC` (R65). -/
def envDirectionField (v : Byte) : EnvDirection := if v.getLsbD 3 then .inc else .dec

/-- `v[2:0]` of `CHk_ENV` (R65). -/
def envPeriodField (v : Byte) : BitVec 3 := v.extractLsb' 0 3

/-- `v[7]` of `CHk_FREQHI`: the trigger bit (R67). -/
def triggerField (v : Byte) : Bool := v.getLsbD 7

/-- `v[6]` of `CHk_FREQHI`: length enable (R67). -/
def lengthEnableField (v : Byte) : Bool := v.getLsbD 6

/-- The frequency after a low-byte write: `(f & 0x700) | v` (R71). -/
def frequencyWithLow (f : BitVec 12) (v : Byte) : BitVec 12 := (f &&& 0x700#12) ||| v.setWidth 12

/-- The frequency after a high-byte write: `(f & 0x0FF) | (v[2:0] << 8)` (R71). -/
def frequencyWithHigh (f : BitVec 12) (v : Byte) : BitVec 12 :=
  (f &&& 0x0FF#12) ||| ((v.extractLsb' 0 3).setWidth 12 <<< 8)

/-- The left field of `MASTER_VOL`: `v[6:4]` when `LEFT_IS_HIGH`, else `v[2:0]` (R68). -/
def masterLeftField (leftIsHigh : Bool) (v : Byte) : BitVec 3 :=
  if leftIsHigh then v.extractLsb' 4 3 else v.extractLsb' 0 3

/-- The right field of `MASTER_VOL`: the other one (R68). -/
def masterRightField (leftIsHigh : Bool) (v : Byte) : BitVec 3 :=
  if leftIsHigh then v.extractLsb' 0 3 else v.extractLsb' 4 3

/-- The place of a channel's bit inside a nibble of `ROUTING` (R69). -/
def routeBitOf : Chan → Nat
  | .one => 0
  | .two => 1

/-- `route_left(k)` in the routing mask `m` (R69, R194). -/
def routeLeft (leftIsHigh : Bool) (m : Byte) (k : Chan) : Bool :=
  m.getLsbD (if leftIsHigh then 4 + routeBitOf k else routeBitOf k)

/-- `route_right(k)` in the routing mask `m` (R69, R194). -/
def routeRight (leftIsHigh : Bool) (m : Byte) (k : Chan) : Bool :=
  m.getLsbD (if leftIsHigh then routeBitOf k else 4 + routeBitOf k)

/-- `v[7]` of `POWER_STATUS` (R70). -/
def powerField (v : Byte) : Bool := v.getLsbD 7

/-- `in_range(addr)` (R41). -/
def inRange (c : Config) (addr : Nat) : Bool := decide (c.base ≤ addr) && decide (addr ≤ c.base + 0x16)

/-- The `OFF` field of an access to `addr` (R60): `addr - BASE` up to `BASE + 0xFE`, 0xFF for every other address. -/
def busOffset (c : Config) (addr : Nat) : Byte :=
  if c.base ≤ addr ∧ addr ≤ c.base + 0xFE then BitVec.ofNat 8 (addr - c.base) else 0xFF#8

end Sys2Proof.Machine
end

