-- ==== Sys2Proof/Machine/Ops.lean ====
section
/-! DEFINITION. The shared operations: the bytes of the register block, access to the channels and the ports, the
record of a read's result, the guard of an operation after the fault, and taking the fault. -/

namespace Sys2Proof.Machine

/-! ### The register block's bytes (R21, R40) -/

/-- The byte at an offset. -/
def Memory.read : Memory → Nat → Byte
  | [], _ => Memory.unlisted
  | (a, b) :: m, x => if x = a then b else Memory.read m x

/-- Storing a byte at an offset, keeping the canonical form. -/
def Memory.write : Memory → Nat → Byte → Memory
  | [], x, v => if v = Memory.unlisted then [] else [(x, v)]
  | (a, b) :: m, x, v =>
    if x < a then
      if v = Memory.unlisted then (a, b) :: m else (x, v) :: (a, b) :: m
    else if x = a then
      if v = Memory.unlisted then m else (a, v) :: m
    else (a, b) :: Memory.write m x v

/-- Canonical from `lo` on: offsets strictly rising, none below `lo`, no entry equal to the unlisted byte. -/
def Memory.wfFrom : Nat → Memory → Bool
  | _, [] => true
  | lo, (a, b) :: m => decide (lo ≤ a) && decide (b ≠ Memory.unlisted) && Memory.wfFrom (a + 1) m

/-- The canonical form of the register block's bytes. -/
def Memory.wf (m : Memory) : Bool := Memory.wfFrom 0 m

/-- Every listed offset lies in the block, 0x00 to 0x16 (R40). -/
def Memory.inBlock (m : Memory) : Bool := m.all fun cell => decide (cell.1 ≤ 0x16)

/-! ### Channels and ports -/

/-- `has_sweep(k)` (R14): true for channel 1 only. -/
def hasSweep : Chan → Bool
  | .one => true
  | .two => false

/-- `CH[k]`. -/
def State.ch (s : State) : Chan → Channel
  | .one => s.ch1
  | .two => s.ch2

/-- `CH[k] <- ch`. -/
def State.setCh (s : State) (k : Chan) (ch : Channel) : State :=
  match k with
  | .one => { s with ch1 := ch }
  | .two => { s with ch2 := ch }

/-- `ACC[k]`: channel `k` is bound to port `k` (R16). -/
def State.port (s : State) : Chan → Port
  | .one => s.acc1
  | .two => s.acc2

/-- `ACC[k] <- p`. -/
def State.setPort (s : State) (k : Chan) (p : Port) : State :=
  match k with
  | .one => { s with acc1 := p }
  | .two => { s with acc2 := p }

/-- `emit` on accumulator port `k`: the events follow those emitted before (R8, R55). -/
def State.emit (s : State) (k : Chan) (es : List PortEvent) : State :=
  s.setPort k { s.port k with events := (s.port k).events ++ es }

/-- `emit Deliver(chunk)` on the sink port (R8, R190). -/
def State.deliver (s : State) (chunk : Chunk) : State := { s with sinkChunks := s.sinkChunks ++ [chunk] }

/-- `READ` returns the byte to the host (R6, R90). -/
def State.recordRead (s : State) (b : Byte) : State := { s with readResults := s.readResults ++ [b] }

/-- `SHADOW[o] <- v` (R95 step 4). -/
def State.storeShadow (s : State) (o : Nat) (v : Byte) : State := { s with shadow := Memory.write s.shadow o v }

/-! ### The fault (R210 to R215) -/

/-- Taking the fault: `faulted` becomes true and the run is over, with everything done so far kept (R193, R213,
R214). -/
def raiseMixLengthMismatch (n1 n2 : Nat) (s : State) : Host.Outcome State Fault Refusal :=
  .fault (.mixLengthMismatch n1 n2 { s with faulted := true })

/-- An operation of the host: none has a meaning after the fault (R214, U11). -/
def operate (f : State → Host.Outcome State Fault Refusal) (s : State) : Host.Outcome State Fault Refusal :=
  if s.faulted then .refused .afterFault else f s

end Sys2Proof.Machine
end

