-- ==== Sys2Proof/Machine/Flags.lean ====
section
/-! DEFINITION. The derived predicates of a channel and the status byte (spec 10_state R15, R17, R22;
40_register_ops R92). There are no condition codes. -/

namespace Sys2Proof.Machine

/-- `length_silenced(k)` (R17). -/
def Channel.lengthSilenced (ch : Channel) : Bool := ch.lengthEnabled && decide (64 ≤ ch.length.toNat)

/-- `on(k)`, the status bit (R17, R22). -/
def Channel.on (ch : Channel) : Bool := ch.enabled && (!ch.lengthEnabled || decide (ch.length.toNat < 64))

/-- `off(k)`, the generator's test (R17); not the negation of `on(k)`. -/
def Channel.off (ch : Channel) : Bool := !ch.enabled || ch.lengthSilenced || decide (ch.period = 0)

/-- `sweep_active(k)` (R15). -/
def sweepActive (k : Chan) (sw : Sweep) : Bool :=
  hasSweep k && decide (sw.period ≠ 0) && decide (sw.shift ≠ 0)

/-- The byte `POWER_STATUS` reads as: the shadow's upper nibble, bits 3:2 zero, the two on bits (R92). -/
def statusByte (s : State) : Byte :=
  (Memory.read s.shadow 0x16 &&& 0xF0#8) ||| (if (s.ch .two).on then 0x02#8 else 0#8) |||
    (if (s.ch .one).on then 0x01#8 else 0#8)

end Sys2Proof.Machine
end

