-- ==== Sys2Proof/Machine/Units.lean ====
section
/-! DEFINITION. The channel units: period, envelope, sweep, length, trigger and waveform generation
(spec 41_channel_units R130 to R141). -/

namespace Sys2Proof.Machine

/-! ### Period (R130) -/

/-- `calc_period(f)`. -/
def calcPeriod (f : BitVec 12) : BitVec 14 :=
  if f.toNat ≤ 2048 then BitVec.ofNat 14 ((2048 - f.toNat) * 4) else 0

/-- Every write of `frequency` recomputes `period` (R18, D37). -/
def Channel.withFrequency (ch : Channel) (f : BitVec 12) : Channel :=
  { ch with frequency := f, period := calcPeriod f }

/-! ### Volume envelope (R132 to R134) -/

/-- `env_control_write` (R132). -/
def envControlWrite (v : Byte) (e : Envelope) : Envelope :=
  { e with
    period := envPeriodField v
    direction := envDirectionField v
    initialVolume := initialVolumeField v
    volume := initialVolumeField v }

/-- `env_trigger` (R133). -/
def envTrigger (e : Envelope) : Envelope := { e with delay := e.period, volume := e.initialVolume }

/-- One volume step, clamped to 0 and 15 (R134). -/
def stepVolume (d : EnvDirection) (vol : BitVec 4) : BitVec 4 :=
  match d with
  | .inc => if vol.toNat < 15 then vol + 1 else vol
  | .dec => if 0 < vol.toNat then vol - 1 else vol

/-- `env_step` (R134). -/
def envStep (e : Envelope) : Envelope :=
  if e.period = 0 then e
  else if e.delay = 0 then e
  else if e.delay - 1 = 0 then { e with delay := e.period, volume := stepVolume e.direction e.volume }
  else { e with delay := e.delay - 1 }

/-! ### Frequency sweep (R136, R137) -/

/-- `sweep_recalc` on the sweep and channel 1 (R136). -/
def sweepRecalc (sw : Sweep) (ch : Channel) : Sweep × Channel :=
  let shadow := sw.shadowFrequency.toNat
  let offset := shadow >>> sw.shift.toNat
  let committed := ch.withFrequency sw.shadowFrequency
  match sw.direction with
  | .sub =>
    ({ sw with
        delay := sw.period
        shadowFrequency := if shadow ≤ offset then 0 else BitVec.ofNat 12 (shadow - offset) }, committed)
  | .add =>
    if 2048 - offset ≤ shadow then
      ({ sw with delay := 0, shadowFrequency := 2048 }, ch.withFrequency 2048)
    else
      ({ sw with delay := sw.period, shadowFrequency := BitVec.ofNat 12 (shadow + offset) }, committed)

/-- `call sweep_recalc()`. -/
def sweepRecalcState (s : State) : State :=
  { s with sweep := (sweepRecalc s.sweep s.ch1).1, ch1 := (sweepRecalc s.sweep s.ch1).2 }

/-- `sweep_step()` (R137). -/
def sweepStep (s : State) : State :=
  if !sweepActive .one s.sweep then s
  else if s.sweep.delay = 0 then s
  else
    let counted := { s with sweep := { s.sweep with delay := s.sweep.delay - 1 } }
    if counted.sweep.delay = 0 then sweepRecalcState counted else counted

/-! ### Length counter (R138) -/

/-- `length_step` on a channel (R138). -/
def lengthStep (ch : Channel) : Channel :=
  if ch.lengthEnabled && decide (ch.length.toNat < 64) then { ch with length := ch.length + 1 } else ch

/-! ### Trigger (R139) -/

/-- The trigger's effect on the channel's own fields (R139 lines 1 to 3). -/
def Channel.restart (ch : Channel) : Channel :=
  { ch with delay := 0, enabled := true, length := if ch.length.toNat = 64 then 0 else ch.length }

/-- The trigger's effect on the sweep (R139 lines 4 to 6). -/
def sweepTrigger (k : Chan) (s : State) : State :=
  if hasSweep k then
    let loaded := { s with sweep := { s.sweep with shadowFrequency := (s.ch k).frequency } }
    if sweepActive k loaded.sweep then sweepRecalcState loaded else loaded
  else s

/-- `call env_trigger(k)`. -/
def envTriggerState (k : Chan) (s : State) : State :=
  s.setCh k { s.ch k with env := envTrigger (s.ch k).env }

/-- `trigger(k)` (R139). -/
def trigger (k : Chan) (s : State) : State :=
  envTriggerState k (sweepTrigger k (s.setCh k (s.ch k).restart))

/-! ### Waveform generation (R131, R140, R141) -/

/-- The sign of a pattern entry. -/
def polaritySign : Polarity → Int
  | .low => -1
  | .high => 1

/-- `PATTERN[d]` (R131); row 2 is fixed (R4). -/
def patternRow (c : Config) (d : BitVec 2) : Vector Polarity 8 :=
  match d.toNat with
  | 0 => c.pattern0
  | 1 => c.pattern1
  | 2 => patternTwo
  | _ => c.pattern3

/-- `PATTERN[d][p]`. -/
def patternAt (c : Config) (d : BitVec 2) (p : BitVec 3) : Int := polaritySign ((patternRow c d)[p.toNat]'p.isLt)

/-- `vol * PATTERN[duty][phase]` (R141). -/
def amplitude (c : Config) (ch : Channel) (p : BitVec 3) : Int := (ch.env.volume.toNat : Int) * patternAt c ch.duty p

/-- What the loop of R141 leaves: the events it emitted, and the cursor, phase and level at its exit. -/
structure Generated where
  events : List PortEvent
  cursor : Nat
  phase : BitVec 3
  lastAmp : Int
deriving DecidableEq, Repr

/-- The loop of R141, `while cursor <= end_tick`, `fuel` bounding its passes. -/
def generateLoop (amp : BitVec 3 → Int) (period endTick : Nat) :
    (fuel : Nat) → (cursor : Nat) → (phase : BitVec 3) → (lastAmp : Int) → Generated
  | 0, cursor, phase, lastAmp => ⟨[], cursor, phase, lastAmp⟩
  | fuel + 1, cursor, phase, lastAmp =>
    if cursor ≤ endTick then
      let a := amp phase
      let g := generateLoop amp period endTick fuel (cursor + period) (phase + 1) a
      { g with events := if a = lastAmp then g.events else .addDelta cursor (a - lastAmp) :: g.events }
    else ⟨[], cursor, phase, lastAmp⟩

/-- The on branch of `generate` (R141). With a period of at least 1 the loop makes at most `endTick + 1` passes. -/
def generateOn (c : Config) (k : Chan) (startTick endTick : Nat) (s : State) : State :=
  let ch := s.ch k
  let g := generateLoop (amplitude c ch) ch.period.toNat endTick (endTick + 1 - startTick)
    (startTick + ch.delay.toNat) ch.phase ch.lastAmp
  (s.emit k g.events).setCh k
    { ch with phase := g.phase, lastAmp := g.lastAmp, delay := BitVec.ofNat 14 (g.cursor - endTick) }

/-- The off branch of `generate` (R140). -/
def generateOff (k : Chan) (startTick : Nat) (s : State) : State :=
  let ch := s.ch k
  if ch.lastAmp = 0 then s
  else (s.emit k [.addDelta startTick (-ch.lastAmp)]).setCh k { ch with lastAmp := 0, delay := 0 }

/-- `generate(k, start_tick, end_tick)` (R140, R141). -/
def generate (c : Config) (k : Chan) (startTick endTick : Nat) (s : State) : State :=
  if (s.ch k).off then generateOff k startTick s else generateOn c k startTick endTick s

end Sys2Proof.Machine
end

