-- ==== Sys2Proof/Machine/Sequencer.lean ====
section
/-! DEFINITION. The frame sequencer: one sequencer tick and the catch-up (spec 42_sequencer_timing R170, R171). -/

namespace Sys2Proof.Machine

/-- `length_step` on both channels (R170). -/
def lengthSteps (s : State) : State := { s with ch1 := lengthStep s.ch1, ch2 := lengthStep s.ch2 }

/-- `env_step` on both channels (R170). -/
def envSteps (s : State) : State :=
  { s with ch1 := { s.ch1 with env := envStep s.ch1.env }, ch2 := { s.ch2 with env := envStep s.ch2.env } }

/-- The units a sequencer tick steps after the lengths: envelopes on phase 0, the sweep on the odd phases (R171). -/
def phaseSteps (s : State) : State :=
  if s.sequencerPhase.toNat = 0 then envSteps s
  else if s.sequencerPhase.toNat % 2 = 1 then sweepStep s
  else s

/-- The last three lines of the loop of R170. -/
def advanceSequencer (s : State) : State :=
  { s with
    sequencerPhase := s.sequencerPhase + 1
    prevFlushTime := s.nextSequencerTick
    nextSequencerTick := s.nextSequencerTick + seqPeriod }

/-- One pass of the loop of R170: one sequencer tick. -/
def sequencerTick (c : Config) (s : State) : State :=
  advanceSequencer (phaseSteps (lengthSteps
    (generate c .two s.prevFlushTime s.nextSequencerTick (generate c .one s.prevFlushTime s.nextSequencerTick s))))

/-- The loop of R170, `while next_sequencer_tick <= virtual_time`, `fuel` bounding its passes. -/
def catchUpLoop (c : Config) : (fuel : Nat) → State → State
  | 0, s => s
  | fuel + 1, s => if s.nextSequencerTick ≤ s.virtualTime then catchUpLoop c fuel (sequencerTick c s) else s

/-- `catch_up(virtual_time)` (R170). Each pass adds 16384 to `next_sequencer_tick`, so the fuel is enough. -/
def catchUp (c : Config) (s : State) : State := catchUpLoop c (s.virtualTime / seqPeriod + 1) s

end Sys2Proof.Machine
end

