-- ==== Sys2Proof/Machine/Mixer.lean ====
section
/-! DEFINITION. The accumulator port as the mixer sees it, finalize, rebase and mix
(spec 43_mixer_output R186 to R196, R199). -/

namespace Sys2Proof.Machine

/-! ### The accumulator port (R187 to R189) -/

/-- The ticks of the `EndFrame`s in a port's history, oldest first (R189 a). -/
def endTicks : List PortEvent → List Nat
  | [] => []
  | .addDelta _ _ :: es => endTicks es
  | .endFrame t :: es => t :: endTicks es

/-- The samples the last event of a history, an `EndFrame`, makes available (R187, R189). -/
def frameSamples (c : Config) (history : List PortEvent) : List Rat :=
  (List.range (c.frameSampleCount (endTicks history))).map (c.sampleValue history)

/-- The samples the events of a history make available after those of `past`. -/
def resampleFrom (c : Config) (past : List PortEvent) : List PortEvent → List Rat
  | [] => []
  | .addDelta t d :: es => resampleFrom c (past ++ [.addDelta t d]) es
  | .endFrame t :: es => frameSamples c (past ++ [.endFrame t]) ++ resampleFrom c (past ++ [.endFrame t]) es

/-- `Resample`: every sample a port's event history has made available, oldest first (R189). -/
def resample (c : Config) (events : List PortEvent) : List Rat := resampleFrom c [] events

/-- The samples of port `k` made available and not yet read. -/
def unreadSamples (c : Config) (k : Chan) (s : State) : List Rat :=
  (resample c (s.port k).events).drop (s.port k).samplesRead

/-- `SamplesAvail(k)` (R188). -/
def samplesAvail (c : Config) (k : Chan) (s : State) : Nat := (unreadSamples c k s).length

/-- The list `ReadSamples(k, n)` returns (R188). -/
def readSamples (c : Config) (k : Chan) (n : Nat) (s : State) : List Rat := (unreadSamples c k s).take n

/-- `ReadSamples(k, n)` removes what it returned (R188). -/
def dropSamples (c : Config) (k : Chan) (n : Nat) (s : State) : State :=
  s.setPort k { s.port k with samplesRead := (s.port k).samplesRead + min n (samplesAvail c k s) }

/-! ### Finalize and rebase (R191, R192) -/

/-- `finalize()` (R191). -/
def finalize (s : State) : State :=
  (s.emit .one [.endFrame s.prevFlushTime]).emit .two [.endFrame s.prevFlushTime]

/-- `rebase()` (R192). -/
def rebase (s : State) : State :=
  { s with
    virtualTime := s.virtualTime - s.prevFlushTime
    nextSequencerTick := s.nextSequencerTick - s.prevFlushTime
    prevFlushTime := 0 }

/-! ### Mixing (R193 to R196) -/

/-- A routing bit as 0 or 1 (R194, R195). -/
def bit01 (b : Bool) : Nat := if b then 1 else 0

/-- The gain of a side with `n` channels routed to it: `(1/n) * (vol/7) * (1/15) * (1/2)`, and 0 when `n` is 0
(R194). -/
def sideGain (n : Nat) (vol : BitVec 3) : Rat :=
  if n = 0 then 0 else (1 / (n : Rat)) * ((vol.toNat : Rat) / 7) * (1 / 15) * (1 / 2)

/-- One side of the mix: its two routing bits and its gain (R194). -/
structure Side where
  route1 : Bool
  route2 : Bool
  gain : Rat
deriving DecidableEq, Repr

/-- A side from its routing bits and its master volume (R194). -/
def makeSide (r1 r2 : Bool) (vol : BitVec 3) : Side := ⟨r1, r2, sideGain (bit01 r1 + bit01 r2) vol⟩

/-- The left side, from the state at the mix (R194). -/
def leftSide (c : Config) (s : State) : Side :=
  let m := Memory.read s.shadow 0x15
  makeSide (routeLeft c.leftIsHigh m .one) (routeLeft c.leftIsHigh m .two) s.masterVolumeLeft

/-- The right side, from the state at the mix (R194). -/
def rightSide (c : Config) (s : State) : Side :=
  let m := Memory.read s.shadow 0x15
  makeSide (routeRight c.leftIsHigh m .one) (routeRight c.leftIsHigh m .two) s.masterVolumeRight

/-- `L[i]` or `R[i]` from the two channels' samples (R195). -/
def mixSide (sd : Side) (s1 s2 : Rat) : Rat :=
  (bit01 sd.route1 : Rat) * sd.gain * s1 + (bit01 sd.route2 : Rat) * sd.gain * s2

/-- `out[i]` (R195). -/
def mixSample (c : Config) (left right : Side) (s1 s2 : Rat) : Rat × Rat :=
  (c.roundSample (mixSide left s1 s2), c.roundSample (mixSide right s1 s2))

/-- The delivery loop of R196, `while remaining > 0`, `fuel` bounding its passes. -/
def deliverLoop (c : Config) (left right : Side) : (fuel : Nat) → (remaining : Nat) → State → State
  | 0, _, s => s
  | fuel + 1, remaining, s =>
    if remaining = 0 then s
    else
      let n := min c.chunk remaining
      let out := List.zipWith (mixSample c left right) (readSamples c .one n s) (readSamples c .two n s)
      deliverLoop c left right fuel (remaining - n) ((dropSamples c .two n (dropSamples c .one n s)).deliver out)

/-- `mix()` (R193 to R196). The gains are computed once (R194); each pass delivers at least one pair, so the fuel is
enough. -/
def mix (c : Config) (s : State) : Host.Outcome State Fault Refusal :=
  let n1 := samplesAvail c .one s
  let n2 := samplesAvail c .two s
  if n1 = n2 then .next (deliverLoop c (leftSide c s) (rightSide c s) n1 n1 s)
  else raiseMixLengthMismatch n1 n2 s

end Sys2Proof.Machine
end

