-- ==== Sys2Proof/Machine/Advance.lean ====
section
/-! DEFINITION. The ADVANCE operation (spec 42_sequencer_timing R172). -/

namespace Sys2Proof.Machine

/-- `ADVANCE(ticks)`: time passes only while powered on, and nothing else happens (R172). -/
def advanceTime (ticks : Nat) (s : State) : State :=
  if s.poweredOn then { s with virtualTime := s.virtualTime + ticks } else s

/-- ADV: `ADVANCE(ticks)` (R172). -/
def execAdv (ticks : Nat) (s : State) : Host.Outcome State Fault Refusal :=
  operate (fun s => .next (advanceTime ticks s)) s

end Sys2Proof.Machine
end

