-- ==== Sys2Proof/Machine/Flush.lean ====
section
/-! DEFINITION. The FLUSH operation (spec 43_mixer_output R185). -/

namespace Sys2Proof.Machine

/-- A due `FLUSH` up to the mix: catch-up, finalize, rebase (R185). -/
def closeFrames (c : Config) (s : State) : State := rebase (finalize (catchUp c s))

/-- `FLUSH` under a configuration (R185): when not due it does nothing at all. -/
def flushOp (c : Config) (s : State) : Host.Outcome State Fault Refusal :=
  operate (fun s => if c.outputPeriod ≤ s.virtualTime then mix c (closeFrames c s) else .next s) s

/-- FLUSH: `FLUSH` (R185). Not gated by power. -/
def execFlush (s : State) : Host.Outcome State Fault Refusal := flushOp Config.machine s

end Sys2Proof.Machine
end

