-- ==== Sys2Proof/Machine/Read.lean ====
section
/-! DEFINITION. The READ operations (spec 40_register_ops R90 to R94): the common procedure and one meaning per row. -/

namespace Sys2Proof.Machine

/-- `RegRead(o)` (R91, R92). -/
def regRead (o : Nat) (s : State) : Byte := if o = 0x16 then statusByte s else Memory.read s.shadow o

/-- `READ` at an offset (R90): the catch-up, then the byte; 0x00 outside the block (R93). Not gated by power (R94). -/
def readOffset (c : Config) (off : Byte) (s : State) : Host.Outcome State Fault Refusal :=
  operate (fun s =>
    let s := catchUp c s
    .next (s.recordRead (if off.toNat ≤ 0x16 then regRead off.toNat s else 0x00#8))) s

/-- RD.CH1_SWEEP: Read offset 0x00 (R91). -/
def execRdCh1Sweep (s : State) : Host.Outcome State Fault Refusal := readOffset Config.machine 0x00#8 s

/-- RD.CH1_DUTYLEN: Read offset 0x01 (R91). -/
def execRdCh1Dutylen (s : State) : Host.Outcome State Fault Refusal := readOffset Config.machine 0x01#8 s

/-- RD.CH1_ENV: Read offset 0x02 (R91). -/
def execRdCh1Env (s : State) : Host.Outcome State Fault Refusal := readOffset Config.machine 0x02#8 s

/-- RD.CH1_FREQLO: Read offset 0x03 (R91). -/
def execRdCh1Freqlo (s : State) : Host.Outcome State Fault Refusal := readOffset Config.machine 0x03#8 s

/-- RD.CH1_FREQHI: Read offset 0x04 (R91). -/
def execRdCh1Freqhi (s : State) : Host.Outcome State Fault Refusal := readOffset Config.machine 0x04#8 s

/-- RD.UNUSED_05: Read offset 0x05 (R91). -/
def execRdUnused05 (s : State) : Host.Outcome State Fault Refusal := readOffset Config.machine 0x05#8 s

/-- RD.CH2_DUTYLEN: Read offset 0x06 (R91). -/
def execRdCh2Dutylen (s : State) : Host.Outcome State Fault Refusal := readOffset Config.machine 0x06#8 s

/-- RD.CH2_ENV: Read offset 0x07 (R91). -/
def execRdCh2Env (s : State) : Host.Outcome State Fault Refusal := readOffset Config.machine 0x07#8 s

/-- RD.CH2_FREQLO: Read offset 0x08 (R91). -/
def execRdCh2Freqlo (s : State) : Host.Outcome State Fault Refusal := readOffset Config.machine 0x08#8 s

/-- RD.CH2_FREQHI: Read offset 0x09 (R91). -/
def execRdCh2Freqhi (s : State) : Host.Outcome State Fault Refusal := readOffset Config.machine 0x09#8 s

/-- RD.UNUSED_0A: Read offset 0x0A (R91). -/
def execRdUnused0A (s : State) : Host.Outcome State Fault Refusal := readOffset Config.machine 0x0A#8 s

/-- RD.UNUSED_0B: Read offset 0x0B (R91). -/
def execRdUnused0B (s : State) : Host.Outcome State Fault Refusal := readOffset Config.machine 0x0B#8 s

/-- RD.UNUSED_0C: Read offset 0x0C (R91). -/
def execRdUnused0C (s : State) : Host.Outcome State Fault Refusal := readOffset Config.machine 0x0C#8 s

/-- RD.UNUSED_0D: Read offset 0x0D (R91). -/
def execRdUnused0D (s : State) : Host.Outcome State Fault Refusal := readOffset Config.machine 0x0D#8 s

/-- RD.UNUSED_0E: Read offset 0x0E (R91). -/
def execRdUnused0E (s : State) : Host.Outcome State Fault Refusal := readOffset Config.machine 0x0E#8 s

/-- RD.UNUSED_0F: Read offset 0x0F (R91). -/
def execRdUnused0F (s : State) : Host.Outcome State Fault Refusal := readOffset Config.machine 0x0F#8 s

/-- RD.UNUSED_10: Read offset 0x10 (R91). -/
def execRdUnused10 (s : State) : Host.Outcome State Fault Refusal := readOffset Config.machine 0x10#8 s

/-- RD.UNUSED_11: Read offset 0x11 (R91). -/
def execRdUnused11 (s : State) : Host.Outcome State Fault Refusal := readOffset Config.machine 0x11#8 s

/-- RD.UNUSED_12: Read offset 0x12 (R91). -/
def execRdUnused12 (s : State) : Host.Outcome State Fault Refusal := readOffset Config.machine 0x12#8 s

/-- RD.UNUSED_13: Read offset 0x13 (R91). -/
def execRdUnused13 (s : State) : Host.Outcome State Fault Refusal := readOffset Config.machine 0x13#8 s

/-- RD.MASTER_VOL: Read offset 0x14 (R91). -/
def execRdMasterVol (s : State) : Host.Outcome State Fault Refusal := readOffset Config.machine 0x14#8 s

/-- RD.ROUTING: Read offset 0x15 (R91). -/
def execRdRouting (s : State) : Host.Outcome State Fault Refusal := readOffset Config.machine 0x15#8 s

/-- RD.POWER_STATUS: Read offset 0x16 (R92). -/
def execRdPowerStatus (s : State) : Host.Outcome State Fault Refusal := readOffset Config.machine 0x16#8 s

/-- RD.OOR: Read an offset outside the block, 0x17 (R93). -/
def execRdOor17 (s : State) : Host.Outcome State Fault Refusal := readOffset Config.machine 0x17#8 s

/-- RD.OOR: Read an offset outside the block, 0x18 to 0x1F (R93). -/
def execRdOor18 (lo : BitVec 3) (s : State) : Host.Outcome State Fault Refusal := readOffset Config.machine (3#5 ++ lo) s

/-- RD.OOR: Read an offset outside the block, 0x20 to 0x3F (R93). -/
def execRdOor20 (lo : BitVec 5) (s : State) : Host.Outcome State Fault Refusal := readOffset Config.machine (1#3 ++ lo) s

/-- RD.OOR: Read an offset outside the block, 0x40 to 0x7F (R93). -/
def execRdOor40 (lo : BitVec 6) (s : State) : Host.Outcome State Fault Refusal := readOffset Config.machine (1#2 ++ lo) s

/-- RD.OOR: Read an offset outside the block, 0x80 to 0xFF (R93). -/
def execRdOor80 (lo : BitVec 7) (s : State) : Host.Outcome State Fault Refusal := readOffset Config.machine (1#1 ++ lo) s

end Sys2Proof.Machine
end

