-- ==== Sys2Proof/Machine/Write.lean ====
section
/-! DEFINITION. The WRITE operations (spec 40_register_ops R95 to R108): the common procedure, what each register
decodes, and one meaning per row. -/

namespace Sys2Proof.Machine

/-! ### What each register decodes (R95 step 5) -/

/-- `CH1_SWEEP` (R96). -/
def writeSweep (v : Byte) (s : State) : State :=
  { s with
    sweep :=
      { s.sweep with
        period := sweepPeriodField v
        direction := sweepDirectionField v
        shift := sweepShiftField v } }

/-- `CHk_DUTYLEN` (R97). -/
def writeDutyLen (k : Chan) (v : Byte) (s : State) : State :=
  s.setCh k { s.ch k with duty := dutyField v, length := lengthLoad v }

/-- `CHk_ENV` (R98): the envelope's reaction to its control register (R108). -/
def writeEnv (k : Chan) (v : Byte) (s : State) : State :=
  s.setCh k { s.ch k with env := envControlWrite v (s.ch k).env }

/-- `CHk_FREQLO` (R99). -/
def writeFreqLo (k : Chan) (v : Byte) (s : State) : State :=
  s.setCh k ((s.ch k).withFrequency (frequencyWithLow (s.ch k).frequency v))

/-- The part every `CHk_FREQHI` write performs (R100). -/
def loadFreqHi (k : Chan) (v : Byte) (s : State) : State :=
  s.setCh k
    { (s.ch k).withFrequency (frequencyWithHigh (s.ch k).frequency v) with lengthEnabled := lengthEnableField v }

/-- `CHk_FREQHI` (R100), and the trigger when bit 7 of the byte is set (R101). -/
def writeFreqHi (k : Chan) (v : Byte) (s : State) : State :=
  if triggerField v then trigger k (loadFreqHi k v s) else loadFreqHi k v s

/-- `MASTER_VOL` (R102). -/
def writeMasterVol (c : Config) (v : Byte) (s : State) : State :=
  { s with
    masterVolumeLeft := masterLeftField c.leftIsHigh v
    masterVolumeRight := masterRightField c.leftIsHigh v }

/-- `ROUTING` and the unused offsets: nothing beyond the shadow (R103, R104). -/
def writeShadowOnly (s : State) : State := s

/-- `POWER_STATUS` (R105). -/
def writePower (v : Byte) (s : State) : State := { s with poweredOn := powerField v }

/-! ### The common procedure (R95) -/

/-- Steps 2 to 5 of R95, after the catch-up: the range test, the power gate (R107), the shadow, the decoding. -/
def acceptWrite (off v : Byte) (effect : State → State) (s : State) : State :=
  if 0x16 < off.toNat then s
  else if off.toNat ≠ 0x16 && !s.poweredOn then s
  else effect (s.storeShadow off.toNat v)

/-- `WRITE` of `v` at an offset (R95), `effect` being what the register decodes. -/
def writeOffset (c : Config) (off v : Byte) (effect : State → State) (s : State) : Host.Outcome State Fault Refusal :=
  operate (fun s => .next (acceptWrite off v effect (catchUp c s))) s

/-! ### One meaning per row -/

/-- WR.CH1_SWEEP: Write offset 0x00 (R96). -/
def execWrCh1Sweep (v : Byte) (s : State) : Host.Outcome State Fault Refusal :=
  writeOffset Config.machine 0x00#8 v (writeSweep v) s

/-- WR.CH1_DUTYLEN: Write offset 0x01 (R97). -/
def execWrCh1Dutylen (v : Byte) (s : State) : Host.Outcome State Fault Refusal :=
  writeOffset Config.machine 0x01#8 v (writeDutyLen .one v) s

/-- WR.CH1_ENV: Write offset 0x02 (R98). -/
def execWrCh1Env (v : Byte) (s : State) : Host.Outcome State Fault Refusal :=
  writeOffset Config.machine 0x02#8 v (writeEnv .one v) s

/-- WR.CH1_FREQLO: Write offset 0x03 (R99). -/
def execWrCh1Freqlo (v : Byte) (s : State) : Host.Outcome State Fault Refusal :=
  writeOffset Config.machine 0x03#8 v (writeFreqLo .one v) s

/-- WR.CH1_FREQHI: Write offset 0x04, bit 7 of the byte clear (R100). -/
def execWrCh1Freqhi (v : Byte) (s : State) : Host.Outcome State Fault Refusal :=
  writeOffset Config.machine 0x04#8 v (writeFreqHi .one v) s

/-- WR.CH1_FREQHI.TRIG: Write offset 0x04, bit 7 of the byte set: the trigger (R101). -/
def execWrCh1FreqhiTrig (v : Byte) (s : State) : Host.Outcome State Fault Refusal :=
  writeOffset Config.machine 0x04#8 v (writeFreqHi .one v) s

/-- WR.UNUSED_05: Write offset 0x05 (R104). -/
def execWrUnused05 (v : Byte) (s : State) : Host.Outcome State Fault Refusal :=
  writeOffset Config.machine 0x05#8 v writeShadowOnly s

/-- WR.CH2_DUTYLEN: Write offset 0x06 (R97). -/
def execWrCh2Dutylen (v : Byte) (s : State) : Host.Outcome State Fault Refusal :=
  writeOffset Config.machine 0x06#8 v (writeDutyLen .two v) s

/-- WR.CH2_ENV: Write offset 0x07 (R98). -/
def execWrCh2Env (v : Byte) (s : State) : Host.Outcome State Fault Refusal :=
  writeOffset Config.machine 0x07#8 v (writeEnv .two v) s

/-- WR.CH2_FREQLO: Write offset 0x08 (R99). -/
def execWrCh2Freqlo (v : Byte) (s : State) : Host.Outcome State Fault Refusal :=
  writeOffset Config.machine 0x08#8 v (writeFreqLo .two v) s

/-- WR.CH2_FREQHI: Write offset 0x09, bit 7 of the byte clear (R100). -/
def execWrCh2Freqhi (v : Byte) (s : State) : Host.Outcome State Fault Refusal :=
  writeOffset Config.machine 0x09#8 v (writeFreqHi .two v) s

/-- WR.CH2_FREQHI.TRIG: Write offset 0x09, bit 7 of the byte set: the trigger (R101). -/
def execWrCh2FreqhiTrig (v : Byte) (s : State) : Host.Outcome State Fault Refusal :=
  writeOffset Config.machine 0x09#8 v (writeFreqHi .two v) s

/-- WR.UNUSED_0A: Write offset 0x0A (R104). -/
def execWrUnused0A (v : Byte) (s : State) : Host.Outcome State Fault Refusal :=
  writeOffset Config.machine 0x0A#8 v writeShadowOnly s

/-- WR.UNUSED_0B: Write offset 0x0B (R104). -/
def execWrUnused0B (v : Byte) (s : State) : Host.Outcome State Fault Refusal :=
  writeOffset Config.machine 0x0B#8 v writeShadowOnly s

/-- WR.UNUSED_0C: Write offset 0x0C (R104). -/
def execWrUnused0C (v : Byte) (s : State) : Host.Outcome State Fault Refusal :=
  writeOffset Config.machine 0x0C#8 v writeShadowOnly s

/-- WR.UNUSED_0D: Write offset 0x0D (R104). -/
def execWrUnused0D (v : Byte) (s : State) : Host.Outcome State Fault Refusal :=
  writeOffset Config.machine 0x0D#8 v writeShadowOnly s

/-- WR.UNUSED_0E: Write offset 0x0E (R104). -/
def execWrUnused0E (v : Byte) (s : State) : Host.Outcome State Fault Refusal :=
  writeOffset Config.machine 0x0E#8 v writeShadowOnly s

/-- WR.UNUSED_0F: Write offset 0x0F (R104). -/
def execWrUnused0F (v : Byte) (s : State) : Host.Outcome State Fault Refusal :=
  writeOffset Config.machine 0x0F#8 v writeShadowOnly s

/-- WR.UNUSED_10: Write offset 0x10 (R104). -/
def execWrUnused10 (v : Byte) (s : State) : Host.Outcome State Fault Refusal :=
  writeOffset Config.machine 0x10#8 v writeShadowOnly s

/-- WR.UNUSED_11: Write offset 0x11 (R104). -/
def execWrUnused11 (v : Byte) (s : State) : Host.Outcome State Fault Refusal :=
  writeOffset Config.machine 0x11#8 v writeShadowOnly s

/-- WR.UNUSED_12: Write offset 0x12 (R104). -/
def execWrUnused12 (v : Byte) (s : State) : Host.Outcome State Fault Refusal :=
  writeOffset Config.machine 0x12#8 v writeShadowOnly s

/-- WR.UNUSED_13: Write offset 0x13 (R104). -/
def execWrUnused13 (v : Byte) (s : State) : Host.Outcome State Fault Refusal :=
  writeOffset Config.machine 0x13#8 v writeShadowOnly s

/-- WR.MASTER_VOL: Write offset 0x14 (R102). -/
def execWrMasterVol (v : Byte) (s : State) : Host.Outcome State Fault Refusal :=
  writeOffset Config.machine 0x14#8 v (writeMasterVol Config.machine v) s

/-- WR.ROUTING: Write offset 0x15 (R103). -/
def execWrRouting (v : Byte) (s : State) : Host.Outcome State Fault Refusal :=
  writeOffset Config.machine 0x15#8 v writeShadowOnly s

/-- WR.POWER_STATUS: Write offset 0x16 (R105). -/
def execWrPowerStatus (v : Byte) (s : State) : Host.Outcome State Fault Refusal :=
  writeOffset Config.machine 0x16#8 v (writePower v) s

/-- WR.OOR: Write an offset outside the block, 0x17 (R106). -/
def execWrOor17 (v : Byte) (s : State) : Host.Outcome State Fault Refusal :=
  writeOffset Config.machine 0x17#8 v writeShadowOnly s

/-- WR.OOR: Write an offset outside the block, 0x18 to 0x1F (R106). -/
def execWrOor18 (lo : BitVec 3) (v : Byte) (s : State) : Host.Outcome State Fault Refusal :=
  writeOffset Config.machine (3#5 ++ lo) v writeShadowOnly s

/-- WR.OOR: Write an offset outside the block, 0x20 to 0x3F (R106). -/
def execWrOor20 (lo : BitVec 5) (v : Byte) (s : State) : Host.Outcome State Fault Refusal :=
  writeOffset Config.machine (1#3 ++ lo) v writeShadowOnly s

/-- WR.OOR: Write an offset outside the block, 0x40 to 0x7F (R106). -/
def execWrOor40 (lo : BitVec 6) (v : Byte) (s : State) : Host.Outcome State Fault Refusal :=
  writeOffset Config.machine (1#2 ++ lo) v writeShadowOnly s

/-- WR.OOR: Write an offset outside the block, 0x80 to 0xFF (R106). -/
def execWrOor80 (lo : BitVec 7) (v : Byte) (s : State) : Host.Outcome State Fault Refusal :=
  writeOffset Config.machine (1#1 ++ lo) v writeShadowOnly s

end Sys2Proof.Machine
end

