-- ==== Sys2Proof/Machine/Dispatch.lean ====
section
/-! DEFINITION. exec: one arm per constructor of Instr, each one direct call of its meaning. -/

namespace Sys2Proof.Machine

def exec (i : Instr) (s : State) : Host.Outcome State Fault Refusal :=
  match i with
  | .adv ticks => Sys2Proof.Machine.execAdv ticks s
  | .flush => Sys2Proof.Machine.execFlush s
  | .rdCh1Sweep => Sys2Proof.Machine.execRdCh1Sweep s
  | .rdCh1Dutylen => Sys2Proof.Machine.execRdCh1Dutylen s
  | .rdCh1Env => Sys2Proof.Machine.execRdCh1Env s
  | .rdCh1Freqlo => Sys2Proof.Machine.execRdCh1Freqlo s
  | .rdCh1Freqhi => Sys2Proof.Machine.execRdCh1Freqhi s
  | .rdUnused05 => Sys2Proof.Machine.execRdUnused05 s
  | .rdCh2Dutylen => Sys2Proof.Machine.execRdCh2Dutylen s
  | .rdCh2Env => Sys2Proof.Machine.execRdCh2Env s
  | .rdCh2Freqlo => Sys2Proof.Machine.execRdCh2Freqlo s
  | .rdCh2Freqhi => Sys2Proof.Machine.execRdCh2Freqhi s
  | .rdUnused0A => Sys2Proof.Machine.execRdUnused0A s
  | .rdUnused0B => Sys2Proof.Machine.execRdUnused0B s
  | .rdUnused0C => Sys2Proof.Machine.execRdUnused0C s
  | .rdUnused0D => Sys2Proof.Machine.execRdUnused0D s
  | .rdUnused0E => Sys2Proof.Machine.execRdUnused0E s
  | .rdUnused0F => Sys2Proof.Machine.execRdUnused0F s
  | .rdUnused10 => Sys2Proof.Machine.execRdUnused10 s
  | .rdUnused11 => Sys2Proof.Machine.execRdUnused11 s
  | .rdUnused12 => Sys2Proof.Machine.execRdUnused12 s
  | .rdUnused13 => Sys2Proof.Machine.execRdUnused13 s
  | .rdMasterVol => Sys2Proof.Machine.execRdMasterVol s
  | .rdRouting => Sys2Proof.Machine.execRdRouting s
  | .rdPowerStatus => Sys2Proof.Machine.execRdPowerStatus s
  | .rdOor17 => Sys2Proof.Machine.execRdOor17 s
  | .rdOor18 lo => Sys2Proof.Machine.execRdOor18 lo s
  | .rdOor20 lo => Sys2Proof.Machine.execRdOor20 lo s
  | .rdOor40 lo => Sys2Proof.Machine.execRdOor40 lo s
  | .rdOor80 lo => Sys2Proof.Machine.execRdOor80 lo s
  | .wrCh1Sweep v => Sys2Proof.Machine.execWrCh1Sweep v s
  | .wrCh1Dutylen v => Sys2Proof.Machine.execWrCh1Dutylen v s
  | .wrCh1Env v => Sys2Proof.Machine.execWrCh1Env v s
  | .wrCh1Freqlo v => Sys2Proof.Machine.execWrCh1Freqlo v s
  | .wrCh1Freqhi v => Sys2Proof.Machine.execWrCh1Freqhi v s
  | .wrCh1FreqhiTrig v => Sys2Proof.Machine.execWrCh1FreqhiTrig v s
  | .wrUnused05 v => Sys2Proof.Machine.execWrUnused05 v s
  | .wrCh2Dutylen v => Sys2Proof.Machine.execWrCh2Dutylen v s
  | .wrCh2Env v => Sys2Proof.Machine.execWrCh2Env v s
  | .wrCh2Freqlo v => Sys2Proof.Machine.execWrCh2Freqlo v s
  | .wrCh2Freqhi v => Sys2Proof.Machine.execWrCh2Freqhi v s
  | .wrCh2FreqhiTrig v => Sys2Proof.Machine.execWrCh2FreqhiTrig v s
  | .wrUnused0A v => Sys2Proof.Machine.execWrUnused0A v s
  | .wrUnused0B v => Sys2Proof.Machine.execWrUnused0B v s
  | .wrUnused0C v => Sys2Proof.Machine.execWrUnused0C v s
  | .wrUnused0D v => Sys2Proof.Machine.execWrUnused0D v s
  | .wrUnused0E v => Sys2Proof.Machine.execWrUnused0E v s
  | .wrUnused0F v => Sys2Proof.Machine.execWrUnused0F v s
  | .wrUnused10 v => Sys2Proof.Machine.execWrUnused10 v s
  | .wrUnused11 v => Sys2Proof.Machine.execWrUnused11 v s
  | .wrUnused12 v => Sys2Proof.Machine.execWrUnused12 v s
  | .wrUnused13 v => Sys2Proof.Machine.execWrUnused13 v s
  | .wrMasterVol v => Sys2Proof.Machine.execWrMasterVol v s
  | .wrRouting v => Sys2Proof.Machine.execWrRouting v s
  | .wrPowerStatus v => Sys2Proof.Machine.execWrPowerStatus v s
  | .wrOor17 v => Sys2Proof.Machine.execWrOor17 v s
  | .wrOor18 lo v => Sys2Proof.Machine.execWrOor18 lo v s
  | .wrOor20 lo v => Sys2Proof.Machine.execWrOor20 lo v s
  | .wrOor40 lo v => Sys2Proof.Machine.execWrOor40 lo v s
  | .wrOor80 lo v => Sys2Proof.Machine.execWrOor80 lo v s

end Sys2Proof.Machine
end

