-- ==== Sys2Proof/Machine/Step.lean ====
section
/-! DEFINITION. One step: the next command word of the host is taken, decoded and executed (spec 00_scope R6;
30_encoding R73; log 1). There is no program counter and no fetch from memory (R11). -/

namespace Sys2Proof.Machine

/-- One step. With no command waiting the unit does nothing (log 2). -/
def step (s : State) : Host.Outcome State Fault Refusal :=
  match s.commands with
  | [] => .next s
  | w :: rest => exec (decode w) { s with commands := rest }

/-- The state in which the instruction with bits `w` (every bit above `nbits` 0) is the next command. -/
def State.withFetchWord (s : State) (nbits w : Nat) : State :=
  { s with commands := BitVec.ofNat 18 (w % 2 ^ nbits) :: s.commands }

end Sys2Proof.Machine
end

