-- ==== Sys2Proof/Machine/HostOps.lean ====
section
/-! DEFINITION. The host's side: the four operations with their addresses and the command words that carry them
(spec 00_scope R6; 20_memory R41; 30_encoding R60, R78, R79), and how they reach the machine (log 1). -/

namespace Sys2Proof.Machine

/-- The four operations (R6). -/
inductive HostOp where
  | read (addr : Nat)
  | write (addr : Nat) (v : Byte)
  | advance (ticks : Nat)
  | flush
deriving DecidableEq, Repr

/-- `ADVN n` (R79): as many full advances as fit, then the remainder when it is not 0. -/
def advanceWords (n : Nat) : List Command :=
  List.replicate (n / 65535) (packAdvance 65535) ++
    if n % 65535 = 0 then [] else [packAdvance (n % 65535)]

/-- The command words of an operation (R60); an `ADVANCE` of more than 65535 ticks is issued as several. -/
def HostOp.words (c : Config) : HostOp → List Command
  | .read addr => [packWord 0#2 (busOffset c addr) 0#8]
  | .write addr v => [packWord 1#2 (busOffset c addr) v]
  | .advance ticks => if ticks ≤ 65535 then [packAdvance ticks] else advanceWords ticks
  | .flush => [packWord 3#2 0#8 0#8]

/-- A line of the trace syntax (R78) or a pseudo-operation (R79), as abstract syntax. -/
inductive TraceOp where
  | rd (off : Byte)
  | wr (off v : Byte)
  | adv (ticks : BitVec 16)
  | flush
  | pwron
  | pwroff
  | freq (k : Chan) (f : BitVec 11)
  | trig (k : Chan) (f : BitVec 11) (lengthEnable : Bool)
  | advn (n : Nat)
  | seq (n : Nat)
deriving DecidableEq, Repr

/-- The offset of `CHk_FREQLO`; `CHk_FREQHI` is the next one (R62). -/
def freqLoOffset : Chan → Byte
  | .one => 0x03#8
  | .two => 0x08#8

/-- The command words of a trace line (R78) and of a pseudo-operation's expansion (R79). -/
def TraceOp.words : TraceOp → List Command
  | .rd off => [packWord 0#2 off 0#8]
  | .wr off v => [packWord 1#2 off v]
  | .adv ticks => [packAdvance ticks.toNat]
  | .flush => [packWord 3#2 0#8 0#8]
  | .pwron => [packWord 1#2 0x16#8 0x80#8]
  | .pwroff => [packWord 1#2 0x16#8 0x00#8]
  | .freq k f =>
    [packWord 1#2 (freqLoOffset k) (BitVec.ofNat 8 (f.toNat % 256)),
      packWord 1#2 (freqLoOffset k + 1) (BitVec.ofNat 8 (f.toNat / 256))]
  | .trig k f le =>
    [packWord 1#2 (freqLoOffset k) (BitVec.ofNat 8 (f.toNat % 256)),
      packWord 1#2 (freqLoOffset k + 1) (BitVec.ofNat 8 (0x80 + (if le then 64 else 0) + f.toNat / 256))]
  | .advn n => advanceWords n
  | .seq n => advanceWords (n * seqPeriod)

/-- The host issues command words: they follow those already waiting (R50: one total order). -/
def State.issue (s : State) (ws : List Command) : State := { s with commands := s.commands ++ ws }

end Sys2Proof.Machine
end

