-- ==== Sys2Proof/Safety.lean ====
section
/-! DEFINITION. What counts as a safe state and a safe run, in the terms the statements use: the ranges and the
invariants the spec gives (R12 to R18, R20, R21, R143, R186, R189), each a predicate of its own. -/

namespace Sys2Proof.Machine

/-- The ranges of a channel (R16) and the invariant of its period (R18). -/
structure Channel.Ok (ch : Channel) : Prop where
  length : ch.length.toNat ≤ 64
  frequency : ch.frequency.toNat ≤ 2048
  period : ch.period = calcPeriod ch.frequency
  delay : ch.delay.toNat ≤ 8192
  levelLow : -15 ≤ ch.lastAmp
  levelHigh : ch.lastAmp ≤ 15

/-- The range of the sweep's working copy (R14), and that a running sweep holds no sentinel (R136). -/
structure Sweep.Ok (sw : Sweep) : Prop where
  range : sw.shadowFrequency.toNat ≤ 2048
  running : sw.delay ≠ 0 → sw.shadowFrequency.toNat ≤ 2047

/-- The register block: canonical, and nothing listed outside offsets 0x00 to 0x16 (R21, R40). -/
structure ShadowOk (m : Memory) : Prop where
  canonical : Memory.wf m = true
  inBlock : Memory.inBlock m = true

/-- The invariant of the time counters between operations (R20). -/
structure TimeOk (s : State) : Prop where
  next : s.nextSequencerTick = s.prevFlushTime + seqPeriod
  prev : s.prevFlushTime ≤ s.virtualTime

/-- A channel's fields that only register writes set are the decoding of its shadow bytes at offsets `d` (duty and
length), `e` (envelope) and `f` (frequency high) (R27: "decoded copy"). -/
structure ChannelMirrors (m : Memory) (d e f : Nat) (ch : Channel) : Prop where
  duty : ch.duty = dutyField (Memory.read m d)
  envPeriod : ch.env.period = envPeriodField (Memory.read m e)
  envDirection : ch.env.direction = envDirectionField (Memory.read m e)
  initialVolume : ch.env.initialVolume = initialVolumeField (Memory.read m e)
  lengthEnabled : ch.lengthEnabled = lengthEnableField (Memory.read m f)

/-- The decoded fields agree with the shadow (R21, R27, R70). -/
structure Mirrors (c : Config) (s : State) : Prop where
  power : s.poweredOn = powerField (Memory.read s.shadow 0x16)
  left : s.masterVolumeLeft = masterLeftField c.leftIsHigh (Memory.read s.shadow 0x14)
  right : s.masterVolumeRight = masterRightField c.leftIsHigh (Memory.read s.shadow 0x14)
  sweepPeriod : s.sweep.period = sweepPeriodField (Memory.read s.shadow 0x00)
  sweepDirection : s.sweep.direction = sweepDirectionField (Memory.read s.shadow 0x00)
  sweepShift : s.sweep.shift = sweepShiftField (Memory.read s.shadow 0x00)
  channel1 : ChannelMirrors s.shadow 0x01 0x02 0x04 s.ch1
  channel2 : ChannelMirrors s.shadow 0x06 0x07 0x09 s.ch2

/-- The sum of the deltas of a port's history (R143). -/
def deltaSum : List PortEvent → Int
  | [] => 0
  | .addDelta _ d :: es => d + deltaSum es
  | .endFrame _ :: es => deltaSum es

/-- The last tick of the open frame of a history that follows R186 from `last` on: ticks never decrease inside a
frame, no tick passes the `EndFrame` that follows, and a delta is non-zero and in -30 to +30; `none` otherwise. -/
def openTick (last : Nat) : List PortEvent → Option Nat
  | [] => some last
  | .addDelta t d :: es => if last ≤ t ∧ d ≠ 0 ∧ -30 ≤ d ∧ d ≤ 30 then openTick t es else none
  | .endFrame t :: es => if last ≤ t then openTick 0 es else none

/-- A port between operations: its level is the channel's (R143), its history follows R186 up to the tick generated,
and every sample made available has been read (R196: no samples are left after a mix). -/
structure PortOk (c : Config) (s : State) (k : Chan) : Prop where
  level : deltaSum (s.port k).events = (s.ch k).lastAmp
  ordered : ∃ t, openTick 0 (s.port k).events = some t ∧ t ≤ s.prevFlushTime
  drained : (s.port k).samplesRead = (resample c (s.port k).events).length

/-- The invariant of the machine: what holds at reset and after every operation. -/
structure Inv (c : Config) (s : State) : Prop where
  running : s.faulted = false
  shadow : ShadowOk s.shadow
  time : TimeOk s
  mirrors : Mirrors c s
  sweep : s.sweep.Ok
  channels : ∀ k, (s.ch k).Ok
  ports : ∀ k, PortOk c s k
  /-- Both ports receive every `EndFrame` (R187). -/
  frames : endTicks s.acc1.events = endTicks s.acc2.events

/-- The total of the ticks at which a port's frames were closed: the origin `O` of R198. -/
def frameOrigin (s : State) (k : Chan) : Nat := (endTicks (s.port k).events).sum

/-- A step that ends in a next state: no fault and no refusal. -/
def safeStep (s : State) : Prop := ∃ t, step s = .next t

end Sys2Proof.Machine
end

