-- ==== Sys2Proof/Certificates/Slice0/Obligations.lean ====
section
/-! DEFINITION. The statements for the provers. Each docstring names the rules of spec/ it formalises and the decision
of the spec or the log entry it rests on. "Running" means that the fault has not been raised (R214). -/

open Sys2Proof Sys2Proof.Machine

/-! ### Encoding -/

/-- Encoding a well-formed instruction and decoding the word, or its three stored bytes (log 13), gives the
instruction back with every operand (R60, R73). -/
def Obligations.DecodeInvertsEncode : Prop :=
  ∀ i : Instr, i.wellFormed = true →
    decode (encode i) = i ∧ ∀ rest, decodeBytes (bytesOfWord (encode i) ++ rest) = .ok (i, rest)

/-- Every word decodes to a well-formed instruction, and encoding that gives the word back with the bits R60 calls
ignored (7:0 of a READ, 15:0 of a FLUSH) written as 0. -/
def Obligations.EncodeInvertsDecodeUpToIgnoredBits : Prop :=
  ∀ w : Command, (decode w).wellFormed = true ∧
    encode (decode w) =
      if w.toNat / 65536 = 0 then BitVec.ofNat 18 (w.toNat / 256 * 256)
      else if w.toNat / 65536 = 3 then 0x30000
      else w

/-- The opcode table is unambiguous and the decoder follows it: every word belongs to the row of the instruction it
decodes to, and to no other row (R73). -/
def Obligations.EveryWordBelongsToOneRow : Prop :=
  ∀ w : Command, (decode w).row.accepts w = true ∧
    ∀ j : Instr, j.row.accepts w = true → j.row = (decode w).row

/-- R74: no command word is illegal. On a running unit every word of a READ, WRITE or ADVANCE ends in a next state; every
word of a FLUSH is the same operation, and ends in a next state or, for unequal sample counts alone, in the one fault. -/
def Obligations.EveryCommandWordHasAnEffect : Prop :=
  ∀ (w : Command) (s : State), s.faulted = false →
    (w.toNat < 0x30000 → ∃ t, exec (decode w) s = .next t) ∧
      (0x30000 ≤ w.toNat → decode w = .flush ∧ ((∃ t, exec (decode w) s = .next t) ∨
        ∃ n1 n2 u, exec (decode w) s = .fault (.mixLengthMismatch n1 n2 u) ∧ n1 ≠ n2))

/-- The words R78 writes out, and one word of each other family, decode to the operation they stand for. -/
def Obligations.WrittenWordsDecode : Prop :=
  decode 0x10484#18 = .wrCh1FreqhiTrig 0x84 ∧ decode 0x01600#18 = .rdPowerStatus ∧ decode 0x24000#18 = .adv 16384 ∧
    decode 0x30000#18 = .flush ∧ decode 0x10447#18 = .wrCh1Freqhi 0x47 ∧ decode 0x01400#18 = .rdMasterVol ∧
    decode 0x0FF00#18 = .rdOor80 0x7F ∧ decode 0x117FF#18 = .wrOor17 0xFF

/-- A step takes the next command word, decodes it and executes it; with none waiting it changes nothing (the queue
and the idle step are the model's choice, logs 1 and 2; R6, R11). -/
def Obligations.StepRunsTheNextCommand : Prop :=
  (∀ (s : State) (w : Command) (rest : List Command), s.commands = w :: rest →
    step s = exec (decode w) { s with commands := rest }) ∧
  (∀ (s : State) (i : Instr) (rest : List Command), i.wellFormed = true → s.commands = encode i :: rest →
    step s = exec i { s with commands := rest }) ∧
  ∀ s : State, s.commands = [] → step s = .next s

/-- An address of the block selects the register at `addr - BASE`, for a read and for a write accepted while powered
on (R41, R60; BASE is open, D5). -/
def Obligations.AddressSelectsTheRegister : Prop :=
  ∀ (addr : Nat) (v : Byte) (s : State), s.faulted = false → Config.machine.base ≤ addr →
    addr ≤ Config.machine.base + 0x16 →
    exec (decode (packWord 0 (busOffset Config.machine addr) 0)) s =
        .next ((catchUp Config.machine s).recordRead
          (regRead (addr - Config.machine.base) (catchUp Config.machine s))) ∧
      (s.poweredOn = true → ∃ t, exec (decode (packWord 1 (busOffset Config.machine addr) v)) s = .next t ∧
        t.shadow = Memory.write s.shadow (addr - Config.machine.base) v)

/-- R48, R93, R106: outside the block a read returns 0 and a write is ignored, without error, after the catch-up; for
every out-of-range row and for every address outside the block. -/
def Obligations.OutsideTheBlockReadsZeroAndIgnoresWrites : Prop :=
  ∀ s : State, s.faulted = false →
    (∀ (l3 : BitVec 3) (l5 : BitVec 5) (l6 : BitVec 6) (l7 : BitVec 7),
      ∀ i ∈ [Instr.rdOor17, .rdOor18 l3, .rdOor20 l5, .rdOor40 l6, .rdOor80 l7],
        exec i s = .next { catchUp Config.machine s with
          readResults := (catchUp Config.machine s).readResults ++ [0x00#8] }) ∧
    (∀ (l3 : BitVec 3) (l5 : BitVec 5) (l6 : BitVec 6) (l7 : BitVec 7) (v : Byte),
      ∀ i ∈ [Instr.wrOor17 v, .wrOor18 l3 v, .wrOor20 l5 v, .wrOor40 l6 v, .wrOor80 l7 v],
        exec i s = .next (catchUp Config.machine s)) ∧
    ∀ (addr : Nat) (v : Byte), (addr < Config.machine.base ∨ Config.machine.base + 0x16 < addr) →
      exec (decode (packWord 0 (busOffset Config.machine addr) 0)) s =
          .next { catchUp Config.machine s with
            readResults := (catchUp Config.machine s).readResults ++ [0x00#8] } ∧
        exec (decode (packWord 1 (busOffset Config.machine addr) v)) s = .next (catchUp Config.machine s)

/-! ### READ -/

/-- R91: each of the 22 plain reads completes on a running unit, powered or not (R94), returning all 8 bits of the
shadow byte, which the catch-up before it never changes, and leaving everything else as the catch-up left it. -/
def Obligations.ReadReturnsTheShadowByte : Prop :=
  ∀ s : State, s.faulted = false →
    ∀ p ∈ [(Instr.rdCh1Sweep, 0x00), (.rdCh1Dutylen, 0x01), (.rdCh1Env, 0x02), (.rdCh1Freqlo, 0x03),
      (.rdCh1Freqhi, 0x04), (.rdUnused05, 0x05), (.rdCh2Dutylen, 0x06), (.rdCh2Env, 0x07), (.rdCh2Freqlo, 0x08),
      (.rdCh2Freqhi, 0x09), (.rdUnused0A, 0x0A), (.rdUnused0B, 0x0B), (.rdUnused0C, 0x0C), (.rdUnused0D, 0x0D),
      (.rdUnused0E, 0x0E), (.rdUnused0F, 0x0F), (.rdUnused10, 0x10), (.rdUnused11, 0x11), (.rdUnused12, 0x12),
      (.rdUnused13, 0x13), (.rdMasterVol, 0x14), (.rdRouting, 0x15)],
      exec p.1 s = .next { catchUp Config.machine s with
        readResults := (catchUp Config.machine s).readResults ++ [Memory.read s.shadow p.2] }

/-- R92 (bits 3:2 by D18): the status read completes on a running unit, powered or not, returning the shadow's upper
nibble, zeros in bits 3:2, and the on bits of the two channels as the catch-up leaves them. -/
def Obligations.StatusReadReturnsNibbleAndOnBits : Prop :=
  ∀ s : State, s.faulted = false → ∃ b : Byte,
    exec .rdPowerStatus s = .next { catchUp Config.machine s with
      readResults := (catchUp Config.machine s).readResults ++ [b] } ∧
    b.toNat / 16 = (Memory.read s.shadow 0x16).toNat / 16 ∧ b.getLsbD 3 = false ∧ b.getLsbD 2 = false ∧
    (b.getLsbD 1 = true ↔ (catchUp Config.machine s).ch2.enabled = true ∧
      ((catchUp Config.machine s).ch2.lengthEnabled = true → (catchUp Config.machine s).ch2.length.toNat < 64)) ∧
    (b.getLsbD 0 = true ↔ (catchUp Config.machine s).ch1.enabled = true ∧
      ((catchUp Config.machine s).ch1.lengthEnabled = true → (catchUp Config.machine s).ch1.length.toNat < 64))

/-- R46, the frame of every READ word: no register, no byte of the block, no setting and no port count is changed by
being read; with no sequencer tick due, only the returned byte is new. -/
def Obligations.ReadChangesOnlyWhatTheCatchUpDoes : Prop :=
  ∀ (off data : Byte) (s t : State), exec (decode (packWord 0 off data)) s = .next t →
    t.poweredOn = s.poweredOn ∧ (∀ o, Memory.read t.shadow o = Memory.read s.shadow o) ∧
    t.virtualTime = s.virtualTime ∧ t.masterVolumeLeft = s.masterVolumeLeft ∧
    t.masterVolumeRight = s.masterVolumeRight ∧ t.faulted = s.faulted ∧ t.sinkChunks = s.sinkChunks ∧
    t.commands = s.commands ∧ t.sweep.period = s.sweep.period ∧ t.sweep.shift = s.sweep.shift ∧
    t.sweep.direction = s.sweep.direction ∧
    (∀ k, (t.ch k).enabled = (s.ch k).enabled ∧ (t.ch k).duty = (s.ch k).duty ∧
      (t.ch k).lengthEnabled = (s.ch k).lengthEnabled ∧ (t.ch k).env.period = (s.ch k).env.period ∧
      (t.ch k).env.direction = (s.ch k).env.direction ∧
      (t.ch k).env.initialVolume = (s.ch k).env.initialVolume ∧
      (t.port k).samplesRead = (s.port k).samplesRead) ∧
    (∃ b, t.readResults = s.readResults ++ [b]) ∧
    (s.virtualTime < s.nextSequencerTick → t = { s with readResults := t.readResults })

/-- R46: two READs of one offset with nothing between them return the same byte, and the second changes no other
state. -/
def Obligations.RepeatedReadReturnsTheSameByte : Prop :=
  ∀ (off : Byte) (s t u : State), exec (decode (packWord 0 off 0)) s = .next t →
    exec (decode (packWord 0 off 0)) t = .next u →
    ∃ b, t.readResults = s.readResults ++ [b] ∧ u = { t with readResults := t.readResults ++ [b] }

/-! ### WRITE -/

/-- R107: while powered off, a write to any offset of the block but 0x16 runs the catch-up and then does nothing; no
byte of the block changes, and a read after it returns the byte stored before. -/
def Obligations.PowerGateIgnoresWrites : Prop :=
  ∀ (off v : Byte) (s : State), s.faulted = false → s.poweredOn = false → off.toNat < 0x16 →
    exec (decode (packWord 1 off v)) s = .next (catchUp Config.machine s) ∧
      (∀ o, Memory.read (catchUp Config.machine s).shadow o = Memory.read s.shadow o) ∧
      ∀ u, exec (decode (packWord 0 off 0)) (catchUp Config.machine s) = .next u →
        u.readResults = s.readResults ++ [Memory.read s.shadow off.toNat]

/-- R96 (positions by D7): the sweep register's three fields; nothing else of the caught-up state changes but the
shadow byte. -/
def Obligations.WriteSweepLoadsItsFields : Prop :=
  ∀ (v : Byte) (s : State), s.faulted = false → s.poweredOn = true →
    exec (.wrCh1Sweep v) s = .next { catchUp Config.machine s with
      shadow := Memory.write s.shadow 0x00 v
      sweep := { (catchUp Config.machine s).sweep with
        period := BitVec.ofNat 3 (v.toNat / 16)
        direction := if v.toNat / 8 % 2 = 1 then .sub else .add
        shift := BitVec.ofNat 3 v.toNat } }

/-- R97 (positions and load by D8): duty and the length load, on the register's channel alone. -/
def Obligations.WriteDutyLenLoadsItsFields : Prop :=
  ∀ (v : Byte) (s : State), s.faulted = false → s.poweredOn = true →
    exec (.wrCh1Dutylen v) s = .next { catchUp Config.machine s with
      shadow := Memory.write s.shadow 0x01 v
      ch1 := { (catchUp Config.machine s).ch1 with
        duty := BitVec.ofNat 2 (v.toNat / 64), length := BitVec.ofNat 7 (v.toNat % 64) } } ∧
    exec (.wrCh2Dutylen v) s = .next { catchUp Config.machine s with
      shadow := Memory.write s.shadow 0x06 v
      ch2 := { (catchUp Config.machine s).ch2 with
        duty := BitVec.ofNat 2 (v.toNat / 64), length := BitVec.ofNat 7 (v.toNat % 64) } }

/-- R98 (positions by D9): the envelope's period, direction and initial volume, and the volume at once; the delay and
the channel proper are untouched. -/
def Obligations.WriteEnvelopeLoadsItsFields : Prop :=
  ∀ (v : Byte) (s : State), s.faulted = false → s.poweredOn = true →
    exec (.wrCh1Env v) s = .next { catchUp Config.machine s with
      shadow := Memory.write s.shadow 0x02 v
      ch1 := { (catchUp Config.machine s).ch1 with
        env := { (catchUp Config.machine s).ch1.env with
          period := BitVec.ofNat 3 v.toNat
          direction := if v.toNat / 8 % 2 = 1 then .inc else .dec
          initialVolume := BitVec.ofNat 4 (v.toNat / 16)
          volume := BitVec.ofNat 4 (v.toNat / 16) } } } ∧
    exec (.wrCh2Env v) s = .next { catchUp Config.machine s with
      shadow := Memory.write s.shadow 0x07 v
      ch2 := { (catchUp Config.machine s).ch2 with
        env := { (catchUp Config.machine s).ch2.env with
          period := BitVec.ofNat 3 v.toNat
          direction := if v.toNat / 8 % 2 = 1 then .inc else .dec
          initialVolume := BitVec.ofNat 4 (v.toNat / 16)
          volume := BitVec.ofNat 4 (v.toNat / 16) } } }

/-- R99 (D12): the low byte of the frequency, bits 10:8 kept and bit 11 cleared, and the period that belongs to it. -/
def Obligations.WriteFreqLoLoadsTheLowByte : Prop :=
  ∀ (v : Byte) (s : State), s.faulted = false → s.poweredOn = true →
    exec (.wrCh1Freqlo v) s = .next { catchUp Config.machine s with
      shadow := Memory.write s.shadow 0x03 v
      ch1 := { (catchUp Config.machine s).ch1 with
        frequency := BitVec.ofNat 12 ((catchUp Config.machine s).ch1.frequency.toNat / 256 % 8 * 256 + v.toNat)
        period := BitVec.ofNat 14
          ((2048 - ((catchUp Config.machine s).ch1.frequency.toNat / 256 % 8 * 256 + v.toNat)) * 4) } } ∧
    exec (.wrCh2Freqlo v) s = .next { catchUp Config.machine s with
      shadow := Memory.write s.shadow 0x08 v
      ch2 := { (catchUp Config.machine s).ch2 with
        frequency := BitVec.ofNat 12 ((catchUp Config.machine s).ch2.frequency.toNat / 256 % 8 * 256 + v.toNat)
        period := BitVec.ofNat 14
          ((2048 - ((catchUp Config.machine s).ch2.frequency.toNat / 256 % 8 * 256 + v.toNat)) * 4) } }

/-- R100 (D10, D11): a frequency-high write with bit 7 clear loads frequency bits 10:8, the period and the length
enable, and nothing else: no trigger. -/
def Obligations.WriteFreqHiWithoutTrigger : Prop :=
  ∀ (v : Byte) (s : State), s.faulted = false → s.poweredOn = true → v.toNat < 128 →
    exec (.wrCh1Freqhi v) s = .next { catchUp Config.machine s with
      shadow := Memory.write s.shadow 0x04 v
      ch1 := { (catchUp Config.machine s).ch1 with
        frequency := BitVec.ofNat 12 ((catchUp Config.machine s).ch1.frequency.toNat % 256 + v.toNat % 8 * 256)
        period := BitVec.ofNat 14
          ((2048 - ((catchUp Config.machine s).ch1.frequency.toNat % 256 + v.toNat % 8 * 256)) * 4)
        lengthEnabled := decide (64 ≤ v.toNat) } } ∧
    exec (.wrCh2Freqhi v) s = .next { catchUp Config.machine s with
      shadow := Memory.write s.shadow 0x09 v
      ch2 := { (catchUp Config.machine s).ch2 with
        frequency := BitVec.ofNat 12 ((catchUp Config.machine s).ch2.frequency.toNat % 256 + v.toNat % 8 * 256)
        period := BitVec.ofNat 14
          ((2048 - ((catchUp Config.machine s).ch2.frequency.toNat % 256 + v.toNat % 8 * 256)) * 4)
        lengthEnabled := decide (64 ≤ v.toNat) } }

/-- R101, R139 on channel 2 (D13, D23): the trigger restarts delay, enable, an expired length and the envelope; the
channel has no sweep. -/
def Obligations.TriggerRestartsChannelTwo : Prop :=
  ∀ (v : Byte) (s : State), s.faulted = false → s.poweredOn = true → 128 ≤ v.toNat →
    let u := catchUp Config.machine s
    let f := u.ch2.frequency.toNat % 256 + v.toNat % 8 * 256
    exec (.wrCh2FreqhiTrig v) s = .next { u with
      shadow := Memory.write s.shadow 0x09 v
      ch2 := { u.ch2 with
        frequency := BitVec.ofNat 12 f
        period := BitVec.ofNat 14 ((2048 - f) * 4)
        lengthEnabled := decide (64 ≤ v.toNat % 128)
        enabled := true
        delay := 0
        length := if u.ch2.length.toNat = 64 then 0 else u.ch2.length
        env := { u.ch2.env with delay := u.ch2.env.period, volume := u.ch2.env.initialVolume } } }

/-- R101, R139 with R136 on channel 1 (D13, D21, D23): as on channel 2, and the sweep: the frequency is copied into
the working copy, and an active sweep recalculates at once; an overflow silences the channel with the sentinel 2048. -/
def Obligations.TriggerRestartsChannelOneAndItsSweep : Prop :=
  ∀ (v : Byte) (s : State), s.faulted = false → s.poweredOn = true → 128 ≤ v.toNat →
    let u := catchUp Config.machine s
    let f := u.ch1.frequency.toNat % 256 + v.toNat % 8 * 256
    let active : Prop := u.sweep.period ≠ 0 ∧ u.sweep.shift ≠ 0
    let offset := f / 2 ^ u.sweep.shift.toNat
    let overflow : Prop := active ∧ u.sweep.direction = .add ∧ 2048 ≤ f + offset
    exec (.wrCh1FreqhiTrig v) s = .next { u with
      shadow := Memory.write s.shadow 0x04 v
      sweep := { u.sweep with
        delay := if overflow then 0 else if active then u.sweep.period else u.sweep.delay
        shadowFrequency := BitVec.ofNat 12
          (if overflow then 2048
            else if active then (if u.sweep.direction = .add then f + offset else f - offset)
            else f) }
      ch1 := { u.ch1 with
        frequency := BitVec.ofNat 12 (if overflow then 2048 else f)
        period := BitVec.ofNat 14 (if overflow then 0 else (2048 - f) * 4)
        lengthEnabled := decide (64 ≤ v.toNat % 128)
        enabled := true
        delay := 0
        length := if u.ch1.length.toNat = 64 then 0 else u.ch1.length
        env := { u.ch1.env with delay := u.ch1.env.period, volume := u.ch1.env.initialVolume } } }

/-- R102 (positions by D14, LEFT_IS_HIGH): the two master volumes. -/
def Obligations.WriteMasterVolumeLoadsBothSides : Prop :=
  ∀ (v : Byte) (s : State), s.faulted = false → s.poweredOn = true →
    exec (.wrMasterVol v) s = .next { catchUp Config.machine s with
      shadow := Memory.write s.shadow 0x14 v
      masterVolumeLeft := if Config.machine.leftIsHigh then BitVec.ofNat 3 (v.toNat / 16) else BitVec.ofNat 3 v.toNat
      masterVolumeRight :=
        if Config.machine.leftIsHigh then BitVec.ofNat 3 v.toNat else BitVec.ofNat 3 (v.toNat / 16) }

/-- R103, R104 (D15, D38): the routing register and the eleven unused offsets store their byte and do nothing else. -/
def Obligations.WriteRoutingAndUnusedOnlyStore : Prop :=
  ∀ (v : Byte) (s : State), s.faulted = false → s.poweredOn = true →
    ∀ p ∈ [(Instr.wrRouting v, 0x15), (.wrUnused05 v, 0x05), (.wrUnused0A v, 0x0A), (.wrUnused0B v, 0x0B),
      (.wrUnused0C v, 0x0C), (.wrUnused0D v, 0x0D), (.wrUnused0E v, 0x0E), (.wrUnused0F v, 0x0F),
      (.wrUnused10 v, 0x10), (.wrUnused11 v, 0x11), (.wrUnused12 v, 0x12), (.wrUnused13 v, 0x13)],
      exec p.1 s = .next { catchUp Config.machine s with shadow := Memory.write s.shadow p.2 v }

/-- R105 (D16, D17): the power register sets the power from bit 7 whatever the power was, stores its byte, and clears
nothing. -/
def Obligations.WritePowerSetsThePower : Prop :=
  ∀ (v : Byte) (s : State), s.faulted = false →
    exec (.wrPowerStatus v) s = .next { catchUp Config.machine s with
      shadow := Memory.write s.shadow 0x16 v
      poweredOn := decide (128 ≤ v.toNat) }

/-- R21, R91, R95: while powered on, what a write stores at an offset below 0x16 is what the next read of that offset
returns, and every other plain offset still reads as before. -/
def Obligations.WrittenByteReadsBack : Prop :=
  ∀ (off off' v : Byte) (s t u : State), Memory.wf s.shadow = true → s.poweredOn = true →
    off.toNat < 0x16 → off'.toNat < 0x16 →
    exec (decode (packWord 1 off v)) s = .next t → exec (decode (packWord 0 off' 0)) t = .next u →
    u.readResults = s.readResults ++ [if off' = off then v else Memory.read s.shadow off'.toNat]

/-- R71, R242: a low-byte write and then a plain high-byte write give the frequency whose halves they are, when no
sequencer tick is due. -/
def Obligations.FrequencyIsWrittenInTwoHalves : Prop :=
  ∀ (lo hi : Byte) (s t u : State), s.poweredOn = true → s.virtualTime < s.nextSequencerTick → hi.toNat < 128 →
    (exec (.wrCh1Freqlo lo) s = .next t → exec (.wrCh1Freqhi hi) t = .next u →
      u.ch1.frequency.toNat = hi.toNat % 8 * 256 + lo.toNat ∧
        u.ch1.period.toNat = (2048 - (hi.toNat % 8 * 256 + lo.toNat)) * 4 ∧ u.ch2 = s.ch2) ∧
    (exec (.wrCh2Freqlo lo) s = .next t → exec (.wrCh2Freqhi hi) t = .next u →
      u.ch2.frequency.toNat = hi.toNat % 8 * 256 + lo.toNat ∧
        u.ch2.period.toNat = (2048 - (hi.toNat % 8 * 256 + lo.toNat)) * 4 ∧ u.ch1 = s.ch1)

/-- R108: over every WRITE word, an envelope reacts to its control register and to its channel's trigger write, and to
no other write; a gated write does not reach it. -/
def Obligations.EnvelopeReactsOnlyToItsTwoAddresses : Prop :=
  ∀ (off v : Byte) (k : Chan) (s t : State), exec (decode (packWord 1 off v)) s = .next t →
    let e := ((catchUp Config.machine s).ch k).env
    let ctrl : Byte := match k with
      | .one => 0x02
      | .two => 0x07
    let freqHi : Byte := match k with
      | .one => 0x04
      | .two => 0x09
    (t.ch k).env =
      if s.poweredOn = true ∧ off = ctrl then
        { e with
          period := BitVec.ofNat 3 v.toNat
          direction := if v.toNat / 8 % 2 = 1 then .inc else .dec
          initialVolume := BitVec.ofNat 4 (v.toNat / 16)
          volume := BitVec.ofNat 4 (v.toNat / 16) }
      else if s.poweredOn = true ∧ off = freqHi ∧ 128 ≤ v.toNat then
        { e with delay := e.period, volume := e.initialVolume }
      else e

/-! ### ADVANCE -/

/-- R172: ADVANCE adds its ticks to the virtual time while powered on and is a no-op while powered off; two advances
are one of the sum. -/
def Obligations.AdvanceAddsTicksWhilePowered : Prop :=
  ∀ (n : Nat) (s : State), s.faulted = false →
    exec (.adv n) s = .next (if s.poweredOn = true then { s with virtualTime := s.virtualTime + n } else s) ∧
      ∀ (m : Nat) (t : State), exec (.adv n) s = .next t → exec (.adv m) t = exec (.adv (n + m)) s

/-- R60, R79 (D26): the command words of an ADVANCE of any number of ticks, run one by one, advance the time by
exactly that number. -/
def Obligations.LongAdvanceIsSplitExactly : Prop :=
  ∀ (n : Nat) (s : State), s.faulted = false → s.poweredOn = true →
    let ws := (HostOp.advance n).words Config.machine
    Sys2Proof.core.run ws.length ({ s with commands := ws } : State) =
      .next ({ s with commands := [], virtualTime := s.virtualTime + n } : State)

/-! ### The frame sequencer -/

/-- R170, R171: one sequencer tick generates on both channels from the old state, then steps both lengths, then the
envelopes on phase 0 or the sweep on phases 1 and 3, and moves the counters; the catch-up runs every due tick, which
are `(vt - next) div 16384 + 1` when one is due, and leaves none due; and it comes first in every READ, every WRITE
and every due FLUSH: they do what they do from the caught-up state. -/
def Obligations.CatchUpRunsEveryDueTick : Prop :=
  ∀ (c : Config) (s : State),
    (let g := generate c .two s.prevFlushTime s.nextSequencerTick
        (generate c .one s.prevFlushTime s.nextSequencerTick s)
      let l : State := { g with ch1 := lengthStep g.ch1, ch2 := lengthStep g.ch2 }
      let u : State :=
        if s.sequencerPhase = 0 then
          { l with ch1 := { l.ch1 with env := envStep l.ch1.env }, ch2 := { l.ch2 with env := envStep l.ch2.env } }
        else if s.sequencerPhase = 2 then l
        else sweepStep l
      sequencerTick c s =
        { u with
          sequencerPhase := s.sequencerPhase + 1
          prevFlushTime := s.nextSequencerTick
          nextSequencerTick := s.nextSequencerTick + 16384 }) ∧
    catchUp c s =
      (sequencerTick c)^[if s.nextSequencerTick ≤ s.virtualTime then
        (s.virtualTime - s.nextSequencerTick) / 16384 + 1 else 0] s ∧
    s.virtualTime < (catchUp c s).nextSequencerTick ∧
    (s.prevFlushTime ≤ s.virtualTime → (catchUp c s).prevFlushTime ≤ s.virtualTime) ∧
    (∀ off data : Byte,
      exec (decode (packWord 0 off data)) s = exec (decode (packWord 0 off data)) (catchUp Config.machine s) ∧
      exec (decode (packWord 1 off data)) s = exec (decode (packWord 1 off data)) (catchUp Config.machine s)) ∧
    (Config.machine.outputPeriod ≤ s.virtualTime → exec .flush s = exec .flush (catchUp Config.machine s))

/-- R175: the catch-up is idempotent, and catching up to `a` and then to `b` is catching up to `b`. -/
def Obligations.CatchUpComposes : Prop :=
  ∀ (c : Config) (s : State), catchUp c (catchUp c s) = catchUp c s ∧
    ∀ a b : Nat, a ≤ b →
      catchUp c { catchUp c { s with virtualTime := a } with virtualTime := b } =
        catchUp c { s with virtualTime := b }

/-- R20: after every operation the counters stand one period apart around the virtual time, and after every operation
that runs the catch-up no tick is due. -/
def Obligations.TimeCountersAfterEveryOperation : Prop :=
  ∀ (i : Instr) (s t : State), TimeOk s → exec i s = .next t →
    t.nextSequencerTick = t.prevFlushTime + 16384 ∧ t.prevFlushTime ≤ t.virtualTime ∧
      ((∀ n, i ≠ .adv n) → (i = .flush → Config.machine.outputPeriod ≤ s.virtualTime) →
        t.virtualTime < t.nextSequencerTick)

/-! ### The channel units -/

/-- R130: the period of a frequency, its range and that it is a multiple of 4; 0 from the sentinel on. -/
def Obligations.PeriodOfAFrequency : Prop :=
  ∀ f : BitVec 12, (f.toNat ≤ 2048 → (calcPeriod f).toNat = (2048 - f.toNat) * 4) ∧
    (2048 ≤ f.toNat → calcPeriod f = 0) ∧ (calcPeriod f).toNat ≤ 8192 ∧ (calcPeriod f).toNat % 4 = 0

/-- R13: a volume step is exact, never leaves 0 to 15, and at a bound a step in that direction changes nothing of the
volume. -/
def Obligations.EnvelopeVolumeIsClamped : Prop :=
  ∀ e : Envelope,
    ((envStep e).volume = e.volume ∨
      (e.direction = .inc ∧ (envStep e).volume.toNat = e.volume.toNat + 1 ∧ e.volume.toNat < 15) ∨
      (e.direction = .dec ∧ (envStep e).volume.toNat + 1 = e.volume.toNat)) ∧
    (e.direction = .inc → e.volume = 15 → (envStep e).volume = 15) ∧
    (e.direction = .dec → e.volume = 0 → (envStep e).volume = 0)

/-- R135: after a reload the volume changes exactly once in `period` steps, by 1 in the configured direction and
clamped; with period 0, or paused at delay 0, no number of steps changes anything (D20). -/
def Obligations.EnvelopeStepsOncePerPeriod : Prop :=
  ∀ e : Envelope,
    (e.period ≠ 0 → e.delay = e.period →
      (∀ n < e.period.toNat, (envStep^[n] e).volume = e.volume) ∧
        envStep^[e.period.toNat] e = { e with
          volume := BitVec.ofNat 4 (match e.direction with
            | .inc => min 15 (e.volume.toNat + 1)
            | .dec => e.volume.toNat - 1) }) ∧
    ((e.period = 0 ∨ e.delay = 0) → ∀ n, envStep^[n] e = e)

/-- R136 (D21), from a working copy without the sentinel: the commit, the exact subtract and add results, and the
overflow at 2048. -/
def Obligations.SweepRecalculationIsExact : Prop :=
  ∀ (sw : Sweep) (ch : Channel), sw.shadowFrequency.toNat ≤ 2047 →
    let f := sw.shadowFrequency.toNat
    let offset := f / 2 ^ sw.shift.toNat
    (sw.direction = .sub → sweepRecalc sw ch =
      ({ sw with delay := sw.period, shadowFrequency := BitVec.ofNat 12 (f - offset) },
        { ch with frequency := sw.shadowFrequency, period := BitVec.ofNat 14 ((2048 - f) * 4) })) ∧
    (sw.direction = .add → f + offset < 2048 → sweepRecalc sw ch =
      ({ sw with delay := sw.period, shadowFrequency := BitVec.ofNat 12 (f + offset) },
        { ch with frequency := sw.shadowFrequency, period := BitVec.ofNat 14 ((2048 - f) * 4) })) ∧
    (sw.direction = .add → 2048 ≤ f + offset → sweepRecalc sw ch =
      ({ sw with delay := 0, shadowFrequency := 2048 }, { ch with frequency := 2048, period := 0 }))

/-- R137 (D21): an active sweep with delay `d` counts `d - 1` steps down and recalculates on the `d`-th; an inactive
or stopped sweep never moves. -/
def Obligations.SweepStepsCountDownToARecalculation : Prop :=
  ∀ s : State,
    (s.sweep.period ≠ 0 → s.sweep.shift ≠ 0 → s.sweep.delay ≠ 0 →
      (∀ n < s.sweep.delay.toNat, sweepStep^[n] s =
        { s with sweep := { s.sweep with delay := BitVec.ofNat 3 (s.sweep.delay.toNat - n) } }) ∧
      sweepStep^[s.sweep.delay.toNat] s =
        { s with
          sweep := (sweepRecalc { s.sweep with delay := 0 } s.ch1).1
          ch1 := (sweepRecalc { s.sweep with delay := 0 } s.ch1).2 }) ∧
    ((s.sweep.period = 0 ∨ s.sweep.shift = 0 ∨ s.sweep.delay = 0) → ∀ n, sweepStep^[n] s = s)

/-- R136, R137 (D21, V3): a sweep stopped with delay 0 stays stopped until a trigger of channel 1. For every
configuration no catch-up changes the sweep or channel 1's frequency and period; and no operation but the trigger write
of channel 1 changes the sweep's delay or its working copy, nor, a write to one of channel 1's two frequency registers
apart, channel 1's frequency and period. (Such a write may make a channel the overflow silenced audible again, R99's
corner case: the sweep stays stopped all the same.) -/
def Obligations.StoppedSweepStaysUntilTriggered : Prop :=
  ∀ s : State, s.sweep.delay = 0 →
    (∀ c : Config, (catchUp c s).sweep = s.sweep ∧ (catchUp c s).ch1.frequency = s.ch1.frequency ∧
      (catchUp c s).ch1.period = s.ch1.period) ∧
    ∀ (i : Instr) (t : State), i.wellFormed = true → (∀ v, i ≠ .wrCh1FreqhiTrig v) → exec i s = .next t →
      t.sweep.delay = 0 ∧ t.sweep.shadowFrequency = s.sweep.shadowFrequency ∧
      ((∀ v, i ≠ .wrCh1Freqlo v ∧ i ≠ .wrCh1Freqhi v) →
        t.ch1.frequency = s.ch1.frequency ∧ t.ch1.period = s.ch1.period)

/-- R138: `n` length steps add `n` while length is enabled, saturating at 64, and nothing otherwise; no other field of
the channel changes. -/
def Obligations.LengthCounterSaturates : Prop :=
  ∀ (n : Nat) (ch : Channel), ch.length.toNat ≤ 64 →
    lengthStep^[n] ch =
      if ch.lengthEnabled = true then { ch with length := BitVec.ofNat 7 (min 64 (ch.length.toNat + n)) } else ch

/-- R140 (D22): an off channel with a level returns it to 0 by one delta at the interval's start and drops its delay;
without a level nothing happens. -/
def Obligations.OffChannelReturnsToZero : Prop :=
  ∀ (c : Config) (k : Chan) (a b : Nat) (s : State),
    ((s.ch k).enabled = false ∨ ((s.ch k).lengthEnabled = true ∧ 64 ≤ (s.ch k).length.toNat) ∨ (s.ch k).period = 0) →
    ((s.ch k).lastAmp = 0 → generate c k a b s = s) ∧
      ((s.ch k).lastAmp ≠ 0 → generate c k a b s =
        (s.setPort k { s.port k with events := (s.port k).events ++ [.addDelta a (-(s.ch k).lastAmp)] }).setCh k
          { s.ch k with lastAmp := 0, delay := 0 })

/-- R141, R142: the closed form of the loop over one sequencer period: the number of steps, the pattern position and
tick of each, a delta exactly where the level changes, and the carry-over, which lies in 1 to the period. -/
def Obligations.GenerationClosedForm : Prop :=
  ∀ (c : Config) (k : Chan) (a : Nat) (s : State), (s.ch k).off = false →
    let ch := s.ch k
    let p := ch.period.toNat
    let d := ch.delay.toNat
    let n := (16384 - d) / p + 1
    let level : Nat → Int := fun i => (ch.env.volume.toNat : Int) * patternAt c ch.duty (ch.phase + BitVec.ofNat 3 i)
    let before : Nat → Int := fun i => if i = 0 then ch.lastAmp else level (i - 1)
    generate c k a (a + 16384) s =
      (s.setPort k { s.port k with
        events := (s.port k).events ++ (List.range n).filterMap fun i =>
          if level i = before i then none else some (.addDelta (a + d + i * p) (level i - before i)) }).setCh k
        { ch with
          phase := ch.phase + BitVec.ofNat 3 n
          lastAmp := level (n - 1)
          delay := BitVec.ofNat 14 (d + n * p - 16384) } ∧
    1 ≤ d + n * p - 16384 ∧ d + n * p - 16384 ≤ p

/-! ### FLUSH -/

/-- R185 (D27): a FLUSH before the output period is reached does nothing at all, not even the catch-up. -/
def Obligations.FlushNotDueDoesNothing : Prop :=
  ∀ s : State, s.faulted = false → s.virtualTime < Config.machine.outputPeriod → exec .flush s = .next s

/-- R185, R191, R192, R195, R196 (D27, D28, D29): a due FLUSH whose two ports hold equally many samples catches up,
closes both frames at the last boundary `T`, moves the counters' origin to `T`, delivers exactly the mixed pairs of the
two ports' unread samples, in order, in chunks of CHUNK pairs of which only the last may be short and none is empty, and
leaves no sample unread; everything else is as the catch-up left it. MixDeliversTheMixedSamplesInChunks writes the mixed
pair out. -/
def Obligations.FlushDueClosesRebasesAndDelivers : Prop :=
  ∀ s : State, s.faulted = false → Config.machine.outputPeriod ≤ s.virtualTime →
    let u := catchUp Config.machine s
    let closed : State := { u with
      acc1 := { u.acc1 with events := u.acc1.events ++ [.endFrame u.prevFlushTime] }
      acc2 := { u.acc2 with events := u.acc2.events ++ [.endFrame u.prevFlushTime] } }
    samplesAvail Config.machine .one closed = samplesAvail Config.machine .two closed →
    ∃ chunks : List Chunk,
      exec .flush s = .next { closed with
        virtualTime := s.virtualTime - u.prevFlushTime
        nextSequencerTick := u.nextSequencerTick - u.prevFlushTime
        prevFlushTime := 0
        sinkChunks := s.sinkChunks ++ chunks
        acc1 := { closed.acc1 with
          samplesRead := u.acc1.samplesRead + samplesAvail Config.machine .one closed }
        acc2 := { closed.acc2 with
          samplesRead := u.acc2.samplesRead + samplesAvail Config.machine .two closed } } ∧
      chunks.flatten = List.zipWith
        (mixSample Config.machine (leftSide Config.machine closed) (rightSide Config.machine closed))
        (unreadSamples Config.machine .one closed) (unreadSamples Config.machine .two closed) ∧
      (∀ ch ∈ chunks, 1 ≤ ch.length ∧ ch.length ≤ Config.machine.chunk) ∧
      ∀ ch ∈ chunks.dropLast, ch.length = Config.machine.chunk

/-- R194 to R196 (D29), for every configuration: a mix of ports with equally many unread samples delivers exactly the
mixed samples, in order, in chunks of CHUNK pairs of which only the last may be short and none is empty; the gain of a
side is `volume / (210 * n)` for its `n` routed channels, and 0 when there is none. -/
def Obligations.MixDeliversTheMixedSamplesInChunks : Prop :=
  ∀ (c : Config) (s : State), samplesAvail c .one s = samplesAvail c .two s →
    let m := Memory.read s.shadow 0x15
    let hi : Nat := if c.leftIsHigh then 4 else 0
    let lo : Nat := if c.leftIsHigh then 0 else 4
    let one (b : Bool) : Rat := if b then 1 else 0
    let gain (r1 r2 : Bool) (vol : BitVec 3) : Rat :=
      if r1 = false ∧ r2 = false then 0 else (vol.toNat : Rat) / (210 * (one r1 + one r2))
    let side (nib : Nat) (vol : BitVec 3) (x y : Rat) : Rat :=
      one (m.getLsbD nib) * gain (m.getLsbD nib) (m.getLsbD (nib + 1)) vol * x +
        one (m.getLsbD (nib + 1)) * gain (m.getLsbD nib) (m.getLsbD (nib + 1)) vol * y
    ∃ t chunks, mix c s = .next t ∧ t.sinkChunks = s.sinkChunks ++ chunks ∧
      chunks.flatten = List.zipWith
        (fun x y => (c.roundSample (side hi s.masterVolumeLeft x y), c.roundSample (side lo s.masterVolumeRight x y)))
        (unreadSamples c .one s) (unreadSamples c .two s) ∧
      (∀ ch ∈ chunks, 1 ≤ ch.length ∧ ch.length ≤ c.chunk) ∧ ∀ ch ∈ chunks.dropLast, ch.length = c.chunk

/-- R193, R210, R213 (D31), for every configuration (FLUSH is the machine's): a due FLUSH whose ports hold different
numbers of samples raises MixLengthMismatch with the two counts, code 1; the catch-up, the two EndFrames and the rebase
have happened, nothing is read or delivered, and `faulted` is set. -/
def Obligations.UnequalSampleCountsFault : Prop :=
  (∀ s, exec .flush s = flushOp Config.machine s) ∧
  ∀ (c : Config) (s : State), s.faulted = false → c.outputPeriod ≤ s.virtualTime →
    let u := catchUp c s
    let closed : State := { u with
      acc1 := { u.acc1 with events := u.acc1.events ++ [.endFrame u.prevFlushTime] }
      acc2 := { u.acc2 with events := u.acc2.events ++ [.endFrame u.prevFlushTime] } }
    let n1 := samplesAvail c .one closed
    let n2 := samplesAvail c .two closed
    n1 ≠ n2 →
    flushOp c s = .fault (.mixLengthMismatch n1 n2 { closed with
      virtualTime := s.virtualTime - u.prevFlushTime
      nextSequencerTick := u.nextSequencerTick - u.prevFlushTime
      prevFlushTime := 0
      faulted := true }) ∧
    ∀ f, flushOp c s = .fault f → f.code = 1

/-- R210: every operation but FLUSH ends in a next state on a running unit, and so does a FLUSH that is not due or
whose ports hold equally many samples: the fault is raised by a due FLUSH alone, by the mismatch alone. -/
def Obligations.OnlyADueFlushFaults : Prop :=
  (∀ (i : Instr) (s : State), s.faulted = false → i ≠ .flush → ∃ t, exec i s = .next t) ∧
  ∀ (c : Config) (s : State), s.faulted = false →
    (s.virtualTime < c.outputPeriod ∨
      samplesAvail c .one (closeFrames c s) = samplesAvail c .two (closeFrames c s) ↔ ∃ t, flushOp c s = .next t)

/-- R214, R215 (D31, U11): after the fault every operation is refused, a power-off write among them. -/
def Obligations.NoOperationAfterTheFault : Prop :=
  ∀ (i : Instr) (s : State), s.faulted = true → exec i s = .refused .afterFault

/-! ### The whole machine -/

/-- R27, R230, R231 (D24): the state after reset, field by field, and that every shadow byte reads 0x00; the queue and
the read log start empty by the model's choice (logs 1 and 3). -/
def Obligations.ResetState : Prop :=
  State.reset.poweredOn = false ∧ (∀ o, Memory.read State.reset.shadow o = 0x00#8) ∧
    State.reset.virtualTime = 0 ∧ State.reset.prevFlushTime = 0 ∧ State.reset.nextSequencerTick = 16384 ∧
    State.reset.sequencerPhase = 0 ∧ State.reset.masterVolumeLeft = 0 ∧ State.reset.masterVolumeRight = 0 ∧
    (∀ k, State.reset.ch k = ⟨false, 0, 0, 0, false, 0, 8192, 0, 0, ⟨0, .dec, 0, 0, 0⟩⟩) ∧
    State.reset.sweep = ⟨0, 0, 0, 0, .add⟩ ∧ State.reset.faulted = false ∧
    (∀ k, State.reset.port k = ⟨[], 0⟩) ∧ State.reset.sinkChunks = [] ∧ State.reset.readResults = [] ∧
    State.reset.commands = []

/-- The invariant of Safety.lean holds at reset, for every configuration. All of it rests on the reset values, which no
source states: they are the spec's own choice (R27, decision D24; log 10, unsafe), and that an unwritten shadow byte
reads 0x00 is log 11. -/
def Obligations.InvariantAtReset : Prop := ∀ c : Config, Inv c State.reset

/-- Every step keeps the invariant: the block stays canonical and inside its 23 offsets, the counters stay one period
apart (R20), every period is that of its frequency (R18), every range of R12 to R16 holds, the decoded fields stay
those of the shadow (R27, R70), each port's level is its channel's (R143), its history follows R186, and both ports
have the same frames. -/
def Obligations.InvariantKeptByEveryStep : Prop :=
  ∀ s t : State, Inv Config.machine s → step s = .next t → Inv Config.machine t

/-- R189, R210: from a state that meets the invariant every step ends in a next state: the fault is unreachable, no
operation is refused. That the fault is unreachable rests on the accumulator contract (R189, decision D30) as log 6
models it: the number of samples a port makes available depends on its `EndFrame` ticks alone, which both ports share. -/
def Obligations.NoFaultUnderTheInvariant : Prop := ∀ s : State, Inv Config.machine s → safeStep s

/-- R198: the origin of a port plus the virtual time is the total of the ticks ADVANCE has accumulated: an operation
changes it only by its own ticks while powered on; and the absolute tick generated never decreases. -/
def Obligations.AbsoluteTimeIsTheTicksAdvanced : Prop :=
  ∀ (i : Instr) (k : Chan) (s t : State), TimeOk s → exec i s = .next t →
    frameOrigin t k + t.virtualTime = frameOrigin s k + s.virtualTime +
        (match i with
          | .adv n => if s.poweredOn = true then n else 0
          | _ => 0) ∧
      frameOrigin s k + s.prevFlushTime ≤ frameOrigin t k + t.prevFlushTime

/-- R171: the phase is free-running. The ticks generated since reset are a whole number of sequencer periods, whose
count modulo 4 is the phase; no operation (a trigger, a power-off, a flush among them) breaks that, and the count never
decreases. -/
def Obligations.PhaseCountsTheSequencerTicks : Prop :=
  ∀ (i : Instr) (k : Chan) (s t : State) (q : Nat), TimeOk s →
    frameOrigin s k + s.prevFlushTime = 16384 * q → s.sequencerPhase = BitVec.ofNat 2 q → exec i s = .next t →
    ∃ q', q ≤ q' ∧ frameOrigin t k + t.prevFlushTime = 16384 * q' ∧ t.sequencerPhase = BitVec.ofNat 2 q'

/-- R16, C1: nothing clears a channel's `enabled`, and only a trigger write of that channel sets it. -/
def Obligations.EnabledIsSetOnlyByATrigger : Prop :=
  ∀ (i : Instr) (s t : State), i.wellFormed = true → exec i s = .next t →
    (∀ k, (s.ch k).enabled = true → (t.ch k).enabled = true) ∧
      (s.ch1.enabled = false → t.ch1.enabled = true → ∃ v, i = .wrCh1FreqhiTrig v) ∧
      (s.ch2.enabled = false → t.ch2.enabled = true → ∃ v, i = .wrCh2FreqhiTrig v)

/-- R221, R235 (D17): powered off and caught up, every operation but a power write and a FLUSH changes nothing except
the record of a returned byte: time stands still. -/
def Obligations.PoweredOffTimeStandsStill : Prop :=
  ∀ (i : Instr) (s t : State), s.poweredOn = false → s.virtualTime < s.nextSequencerTick →
    (∀ v, i ≠ .wrPowerStatus v) → i ≠ .flush → exec i s = .next t → t = { s with readResults := t.readResults }

/-- R143: the sum of the deltas on a port is its channel's level, kept by every operation on its own. -/
def Obligations.LevelIsTheSumOfTheDeltas : Prop :=
  ∀ (i : Instr) (k : Chan) (s t : State), deltaSum (s.port k).events = (s.ch k).lastAmp → exec i s = .next t →
    deltaSum (t.port k).events = (t.ch k).lastAmp
end

