-- ==== Sys2Proof/Laws/CommandWord.lean ====
section
/-! SUPPORT. The small lemmas of the command word: its fields read back, and masking goes field by field. -/

namespace Sys2Proof

theorem packWord_toNat (op : BitVec 2) (off data : Byte) :
    (packWord op off data).toNat = op.toNat * 65536 + off.toNat * 256 + data.toNat := by
  have h : (packWord op off data).toNat = ((op.toNat <<< 8 ||| off.toNat) <<< 8) ||| data.toNat := by
    rw [packWord, BitVec.toNat_append, BitVec.toNat_append]
  rw [h, ← Nat.shiftLeft_add_eq_or_of_lt data.isLt, ← Nat.shiftLeft_add_eq_or_of_lt off.isLt, Nat.shiftLeft_eq,
    Nat.shiftLeft_eq]
  omega

theorem packAdvance_toNat (n : Nat) : (packAdvance n).toNat = 131072 + n % 65536 := by
  have h : (packAdvance n).toNat = (2 <<< 16) ||| (BitVec.ofNat 16 n).toNat := by
    rw [packAdvance, BitVec.toNat_append]; rfl
  rw [h, ← Nat.shiftLeft_add_eq_or_of_lt (BitVec.ofNat 16 n).isLt, BitVec.toNat_ofNat]; rfl

@[simp] theorem packWord_op (op : BitVec 2) (off data : Byte) : (packWord op off data).extractLsb' 16 2 = op := by
  apply BitVec.eq_of_toNat_eq
  rw [BitVec.extractLsb'_toNat, packWord_toNat, Nat.shiftRight_eq_div_pow]
  omega

@[simp] theorem packWord_off (op : BitVec 2) (off data : Byte) : (packWord op off data).extractLsb' 8 8 = off := by
  apply BitVec.eq_of_toNat_eq
  rw [BitVec.extractLsb'_toNat, packWord_toNat, Nat.shiftRight_eq_div_pow]
  omega

@[simp] theorem packWord_data (op : BitVec 2) (off data : Byte) : (packWord op off data).extractLsb' 0 8 = data := by
  apply BitVec.eq_of_toNat_eq
  rw [BitVec.extractLsb'_toNat, packWord_toNat, Nat.shiftRight_eq_div_pow]
  omega

/-- A word is its three fields. -/
theorem packWord_fields (w : Command) : packWord (w.extractLsb' 16 2) (w.extractLsb' 8 8) (w.extractLsb' 0 8) = w := by
  apply BitVec.eq_of_toNat_eq
  rw [packWord_toNat, BitVec.extractLsb'_toNat, BitVec.extractLsb'_toNat, BitVec.extractLsb'_toNat,
    Nat.shiftRight_eq_div_pow, Nat.shiftRight_eq_div_pow, Nat.shiftRight_eq_div_pow]
  omega

/-- Masking goes field by field. -/
theorem packWord_and (op op' : BitVec 2) (off off' data data' : Byte) :
    packWord op off data &&& packWord op' off' data' = packWord (op &&& op') (off &&& off') (data &&& data') :=
  (BitVec.and_append (x₁ := op ++ off) (x₂ := op' ++ off') (y₁ := data) (y₂ := data')).trans
    (congrArg (fun x => x ++ (data &&& data')) BitVec.and_append)

theorem packAdvance_and (n : Nat) : packAdvance n &&& 0x30000 = 0x20000 :=
  (BitVec.and_append (x₁ := 2#2) (x₂ := 3#2) (y₁ := BitVec.ofNat 16 n) (y₂ := 0#16)).trans
    (congrArg (fun x => (2#2 &&& 3#2) ++ x) (BitVec.and_zero (x := BitVec.ofNat 16 n)))

@[simp] theorem packAdvance_op (n : Nat) : (packAdvance n).extractLsb' 16 2 = 2#2 := by
  apply BitVec.eq_of_toNat_eq
  rw [BitVec.extractLsb'_toNat, packAdvance_toNat, Nat.shiftRight_eq_div_pow]
  simp only [BitVec.toNat_ofNat]
  omega

@[simp] theorem packAdvance_ticks (n : Nat) : (packAdvance n).extractLsb' 0 16 = BitVec.ofNat 16 n := by
  apply BitVec.eq_of_toNat_eq
  rw [BitVec.extractLsb'_toNat, packAdvance_toNat, Nat.shiftRight_eq_div_pow, BitVec.toNat_ofNat]
  omega

end Sys2Proof
end

