-- ==== Sys2Proof/Laws/Memory.lean ====
section
/-! SUPPORT. The laws of the register block's bytes: a byte reads back as written, a write leaves every other offset
alone, every write keeps the canonical form and the block's bounds, and canonical bytes are determined by what they
read as. -/

namespace Sys2Proof.Machine

theorem wfFrom_mono {m : Memory} {lo hi : Nat} (h : Memory.wfFrom hi m = true) (le : lo ≤ hi) :
    Memory.wfFrom lo m = true := by
  cases m with
  | nil => rfl
  | cons cell m =>
    simp only [Memory.wfFrom, Bool.and_eq_true, decide_eq_true_eq] at h ⊢
    exact ⟨⟨by omega, h.1.2⟩, h.2⟩

/-- Below the first listed offset everything reads as the unlisted byte. -/
theorem read_below {m : Memory} {lo x : Nat} (h : Memory.wfFrom lo m = true) (lt : x < lo) :
    Memory.read m x = Memory.unlisted := by
  induction m generalizing lo with
  | nil => rfl
  | cons cell m ih =>
    obtain ⟨a, b⟩ := cell
    simp only [Memory.wfFrom, Bool.and_eq_true, decide_eq_true_eq] at h
    rw [Memory.read, if_neg (by omega)]
    exact ih h.2 (by omega)

theorem read_write_ne (m : Memory) {x y : Nat} (v : Byte) (ne : y ≠ x) :
    Memory.read (Memory.write m x v) y = Memory.read m y := by
  induction m with
  | nil => by_cases hv : v = Memory.unlisted <;> simp [Memory.write, Memory.read, hv, ne]
  | cons cell m ih =>
    obtain ⟨a, b⟩ := cell
    rcases lt_trichotomy x a with lt | rfl | gt
    · by_cases hv : v = Memory.unlisted <;> simp [Memory.write, Memory.read, lt, hv, ne]
    · by_cases hv : v = Memory.unlisted <;> simp [Memory.write, Memory.read, hv, ne]
    · simp [Memory.write, Memory.read, show ¬ x < a by omega, show x ≠ a by omega, ih]

theorem read_write_same_from {m : Memory} {lo : Nat} (h : Memory.wfFrom lo m = true) (x : Nat) (v : Byte) :
    Memory.read (Memory.write m x v) x = v := by
  induction m generalizing lo with
  | nil => by_cases hv : v = Memory.unlisted <;> simp [Memory.write, Memory.read, hv]
  | cons cell m ih =>
    obtain ⟨a, b⟩ := cell
    simp only [Memory.wfFrom, Bool.and_eq_true, decide_eq_true_eq] at h
    rcases lt_trichotomy x a with lt | rfl | gt
    · by_cases hv : v = Memory.unlisted
      · simpa [Memory.write, lt, hv, Memory.read, show x ≠ a by omega] using read_below h.2 (by omega)
      · simp [Memory.write, lt, hv, Memory.read]
    · by_cases hv : v = Memory.unlisted
      · simpa [Memory.write, hv] using read_below h.2 (by omega)
      · simp [Memory.write, hv, Memory.read]
    · simpa [Memory.write, Memory.read, show ¬ x < a by omega, show x ≠ a by omega] using ih h.2

theorem read_write_same {m : Memory} (h : Memory.wf m = true) (x : Nat) (v : Byte) :
    Memory.read (Memory.write m x v) x = v := read_write_same_from h x v

/-- What a write does to every offset of a canonical block. -/
theorem read_write {m : Memory} (h : Memory.wf m = true) (x y : Nat) (v : Byte) :
    Memory.read (Memory.write m x v) y = if y = x then v else Memory.read m y := by
  by_cases e : y = x
  · subst e; simp [read_write_same h]
  · simp [e, read_write_ne m v e]

theorem write_wfFrom {m : Memory} {lo : Nat} (h : Memory.wfFrom lo m = true) {x : Nat} (le : lo ≤ x) (v : Byte) :
    Memory.wfFrom lo (Memory.write m x v) = true := by
  induction m generalizing lo with
  | nil => by_cases hv : v = Memory.unlisted <;> simp [Memory.write, Memory.wfFrom, hv, le]
  | cons cell m ih =>
    obtain ⟨a, b⟩ := cell
    have h' := h
    simp only [Memory.wfFrom, Bool.and_eq_true, decide_eq_true_eq] at h
    rcases lt_trichotomy x a with lt | rfl | gt
    · by_cases hv : v = Memory.unlisted
      · simpa [Memory.write, lt, hv] using h'
      · simp [Memory.write, lt, hv, Memory.wfFrom, le, h.1.2, h.2]
    · by_cases hv : v = Memory.unlisted
      · simpa [Memory.write, hv] using wfFrom_mono h.2 (by omega)
      · simp [Memory.write, hv, Memory.wfFrom, h.2, h.1.1]
    · simp [Memory.write, show ¬ x < a by omega, show x ≠ a by omega, Memory.wfFrom, h.1, ih h.2 (by omega : a + 1 ≤ x)]

/-- A write keeps the canonical form. -/
theorem write_wf {m : Memory} (h : Memory.wf m = true) (x : Nat) (v : Byte) : Memory.wf (Memory.write m x v) = true :=
  write_wfFrom h (Nat.zero_le x) v

/-- A write at an offset of the block lists no offset outside it. -/
theorem write_inBlock {m : Memory} (h : Memory.inBlock m = true) {x : Nat} (le : x ≤ 0x16) (v : Byte) :
    Memory.inBlock (Memory.write m x v) = true := by
  induction m with
  | nil => by_cases hv : v = Memory.unlisted <;> simp [Memory.write, Memory.inBlock, hv, le]
  | cons cell m ih =>
    obtain ⟨a, b⟩ := cell
    simp only [Memory.inBlock, List.all_cons, Bool.and_eq_true, decide_eq_true_eq] at h ih ⊢
    rcases lt_trichotomy x a with lt | rfl | gt
    · by_cases hv : v = Memory.unlisted
      · simpa [Memory.write, lt, hv] using h
      · simpa [Memory.write, lt, hv, le] using h
    · by_cases hv : v = Memory.unlisted
      · simpa [Memory.write, hv] using h.2
      · simpa [Memory.write, hv, le] using h.2
    · simpa [Memory.write, show ¬ x < a by omega, show x ≠ a by omega, h.1] using ih h.2

theorem eq_of_read_eq_from {m n : Memory} {lo : Nat} (hm : Memory.wfFrom lo m = true) (hn : Memory.wfFrom lo n = true)
    (same : ∀ x, Memory.read m x = Memory.read n x) : m = n := by
  induction m generalizing n lo with
  | nil =>
    cases n with
    | nil => rfl
    | cons cell n =>
      obtain ⟨a, b⟩ := cell
      simp only [Memory.wfFrom, Bool.and_eq_true, decide_eq_true_eq] at hn
      exact absurd (by simpa [Memory.read] using (same a).symm) hn.1.2
  | cons cell m ih =>
    obtain ⟨a, b⟩ := cell
    have hm' := hm
    simp only [Memory.wfFrom, Bool.and_eq_true, decide_eq_true_eq] at hm
    cases n with
    | nil => exact absurd (by simpa [Memory.read] using same a) hm.1.2
    | cons cell n =>
      obtain ⟨a', b'⟩ := cell
      have hn' := hn
      simp only [Memory.wfFrom, Bool.and_eq_true, decide_eq_true_eq] at hn
      have eqa : a = a' := by
        rcases lt_trichotomy a a' with lt | e | gt
        · exact absurd (by simpa [Memory.read, show a ≠ a' by omega, read_below hn.2 (by omega : a < a' + 1)] using same a)
            hm.1.2
        · exact e
        · exact absurd (by simpa [Memory.read, show a' ≠ a by omega, read_below hm.2 (by omega : a' < a + 1)]
            using (same a').symm) hn.1.2
      subst eqa
      have eqb : b = b' := by simpa [Memory.read] using same a
      subst eqb
      congr 1
      refine ih hm.2 hn.2 fun x => ?_
      by_cases e : x = a
      · subst e; rw [read_below hm.2 (by omega), read_below hn.2 (by omega)]
      · simpa [Memory.read, e] using same x

/-- Canonical blocks that read alike everywhere are the same data. -/
theorem eq_of_read_eq {m n : Memory} (hm : Memory.wf m = true) (hn : Memory.wf n = true)
    (same : ∀ x, Memory.read m x = Memory.read n x) : m = n := eq_of_read_eq_from hm hn same

end Sys2Proof.Machine
end

