-- ==== Sys2Proof/Laws/State.lean ====
section
/-! SUPPORT. What each named update of State does to each field: true by rfl, for simp. -/

namespace Sys2Proof.Machine

/-! ### Channels and ports through their accessors -/

@[simp] theorem ch_one (s : State) : s.ch .one = s.ch1 := rfl
@[simp] theorem ch_two (s : State) : s.ch .two = s.ch2 := rfl
@[simp] theorem port_one (s : State) : s.port .one = s.acc1 := rfl
@[simp] theorem port_two (s : State) : s.port .two = s.acc2 := rfl
@[simp] theorem setCh_one (s : State) (ch : Channel) : s.setCh .one ch = { s with ch1 := ch } := rfl
@[simp] theorem setCh_two (s : State) (ch : Channel) : s.setCh .two ch = { s with ch2 := ch } := rfl
@[simp] theorem setPort_one (s : State) (p : Port) : s.setPort .one p = { s with acc1 := p } := rfl
@[simp] theorem setPort_two (s : State) (p : Port) : s.setPort .two p = { s with acc2 := p } := rfl

@[simp] theorem ch_setCh (s : State) (k : Chan) (ch : Channel) : (s.setCh k ch).ch k = ch := by cases k <;> rfl
theorem ch_setCh_ne (s : State) (j k : Chan) (ch : Channel) (h : j ≠ k) : (s.setCh k ch).ch j = s.ch j := by
  cases j <;> cases k <;> first | rfl | exact absurd rfl h
@[simp] theorem port_setPort (s : State) (k : Chan) (p : Port) : (s.setPort k p).port k = p := by cases k <;> rfl
theorem port_setPort_ne (s : State) (j k : Chan) (p : Port) (h : j ≠ k) : (s.setPort k p).port j = s.port j := by
  cases j <;> cases k <;> first | rfl | exact absurd rfl h
@[simp] theorem port_setCh (s : State) (j k : Chan) (ch : Channel) : (s.setCh k ch).port j = s.port j := by
  cases j <;> cases k <;> rfl
@[simp] theorem ch_setPort (s : State) (j k : Chan) (p : Port) : (s.setPort k p).ch j = s.ch j := by
  cases j <;> cases k <;> rfl
@[simp] theorem ch_emit (s : State) (j k : Chan) (es : List PortEvent) : (s.emit k es).ch j = s.ch j := by
  cases j <;> cases k <;> rfl
@[simp] theorem setCh_ch (s : State) (k : Chan) : s.setCh k (s.ch k) = s := by cases k <;> rfl

theorem port_emit (s : State) (k : Chan) (es : List PortEvent) :
    (s.emit k es).port k = { s.port k with events := (s.port k).events ++ es } := by cases k <;> rfl
theorem port_emit_ne (s : State) (j k : Chan) (es : List PortEvent) (h : j ≠ k) :
    (s.emit k es).port j = s.port j := by cases j <;> cases k <;> first | rfl | exact absurd rfl h

/-! ### setCh -/

@[simp] theorem setCh_poweredOn (s : State) (k : Chan) (ch : Channel) : (s.setCh k ch).poweredOn = s.poweredOn := by cases k <;> rfl
@[simp] theorem setCh_shadow (s : State) (k : Chan) (ch : Channel) : (s.setCh k ch).shadow = s.shadow := by cases k <;> rfl
@[simp] theorem setCh_virtualTime (s : State) (k : Chan) (ch : Channel) : (s.setCh k ch).virtualTime = s.virtualTime := by cases k <;> rfl
@[simp] theorem setCh_prevFlushTime (s : State) (k : Chan) (ch : Channel) : (s.setCh k ch).prevFlushTime = s.prevFlushTime := by cases k <;> rfl
@[simp] theorem setCh_nextSequencerTick (s : State) (k : Chan) (ch : Channel) : (s.setCh k ch).nextSequencerTick = s.nextSequencerTick := by cases k <;> rfl
@[simp] theorem setCh_sequencerPhase (s : State) (k : Chan) (ch : Channel) : (s.setCh k ch).sequencerPhase = s.sequencerPhase := by cases k <;> rfl
@[simp] theorem setCh_sweep (s : State) (k : Chan) (ch : Channel) : (s.setCh k ch).sweep = s.sweep := by cases k <;> rfl
@[simp] theorem setCh_masterVolumeLeft (s : State) (k : Chan) (ch : Channel) : (s.setCh k ch).masterVolumeLeft = s.masterVolumeLeft := by cases k <;> rfl
@[simp] theorem setCh_masterVolumeRight (s : State) (k : Chan) (ch : Channel) : (s.setCh k ch).masterVolumeRight = s.masterVolumeRight := by cases k <;> rfl
@[simp] theorem setCh_faulted (s : State) (k : Chan) (ch : Channel) : (s.setCh k ch).faulted = s.faulted := by cases k <;> rfl
@[simp] theorem setCh_acc1 (s : State) (k : Chan) (ch : Channel) : (s.setCh k ch).acc1 = s.acc1 := by cases k <;> rfl
@[simp] theorem setCh_acc2 (s : State) (k : Chan) (ch : Channel) : (s.setCh k ch).acc2 = s.acc2 := by cases k <;> rfl
@[simp] theorem setCh_sinkChunks (s : State) (k : Chan) (ch : Channel) : (s.setCh k ch).sinkChunks = s.sinkChunks := by cases k <;> rfl
@[simp] theorem setCh_readResults (s : State) (k : Chan) (ch : Channel) : (s.setCh k ch).readResults = s.readResults := by cases k <;> rfl
@[simp] theorem setCh_commands (s : State) (k : Chan) (ch : Channel) : (s.setCh k ch).commands = s.commands := by cases k <;> rfl

/-! ### setPort -/

@[simp] theorem setPort_poweredOn (s : State) (k : Chan) (p : Port) : (s.setPort k p).poweredOn = s.poweredOn := by cases k <;> rfl
@[simp] theorem setPort_shadow (s : State) (k : Chan) (p : Port) : (s.setPort k p).shadow = s.shadow := by cases k <;> rfl
@[simp] theorem setPort_virtualTime (s : State) (k : Chan) (p : Port) : (s.setPort k p).virtualTime = s.virtualTime := by cases k <;> rfl
@[simp] theorem setPort_prevFlushTime (s : State) (k : Chan) (p : Port) : (s.setPort k p).prevFlushTime = s.prevFlushTime := by cases k <;> rfl
@[simp] theorem setPort_nextSequencerTick (s : State) (k : Chan) (p : Port) : (s.setPort k p).nextSequencerTick = s.nextSequencerTick := by cases k <;> rfl
@[simp] theorem setPort_sequencerPhase (s : State) (k : Chan) (p : Port) : (s.setPort k p).sequencerPhase = s.sequencerPhase := by cases k <;> rfl
@[simp] theorem setPort_ch1 (s : State) (k : Chan) (p : Port) : (s.setPort k p).ch1 = s.ch1 := by cases k <;> rfl
@[simp] theorem setPort_ch2 (s : State) (k : Chan) (p : Port) : (s.setPort k p).ch2 = s.ch2 := by cases k <;> rfl
@[simp] theorem setPort_sweep (s : State) (k : Chan) (p : Port) : (s.setPort k p).sweep = s.sweep := by cases k <;> rfl
@[simp] theorem setPort_masterVolumeLeft (s : State) (k : Chan) (p : Port) : (s.setPort k p).masterVolumeLeft = s.masterVolumeLeft := by cases k <;> rfl
@[simp] theorem setPort_masterVolumeRight (s : State) (k : Chan) (p : Port) : (s.setPort k p).masterVolumeRight = s.masterVolumeRight := by cases k <;> rfl
@[simp] theorem setPort_faulted (s : State) (k : Chan) (p : Port) : (s.setPort k p).faulted = s.faulted := by cases k <;> rfl
@[simp] theorem setPort_sinkChunks (s : State) (k : Chan) (p : Port) : (s.setPort k p).sinkChunks = s.sinkChunks := by cases k <;> rfl
@[simp] theorem setPort_readResults (s : State) (k : Chan) (p : Port) : (s.setPort k p).readResults = s.readResults := by cases k <;> rfl
@[simp] theorem setPort_commands (s : State) (k : Chan) (p : Port) : (s.setPort k p).commands = s.commands := by cases k <;> rfl

/-! ### emit -/

@[simp] theorem emit_poweredOn (s : State) (k : Chan) (es : List PortEvent) : (s.emit k es).poweredOn = s.poweredOn := by cases k <;> rfl
@[simp] theorem emit_shadow (s : State) (k : Chan) (es : List PortEvent) : (s.emit k es).shadow = s.shadow := by cases k <;> rfl
@[simp] theorem emit_virtualTime (s : State) (k : Chan) (es : List PortEvent) : (s.emit k es).virtualTime = s.virtualTime := by cases k <;> rfl
@[simp] theorem emit_prevFlushTime (s : State) (k : Chan) (es : List PortEvent) : (s.emit k es).prevFlushTime = s.prevFlushTime := by cases k <;> rfl
@[simp] theorem emit_nextSequencerTick (s : State) (k : Chan) (es : List PortEvent) : (s.emit k es).nextSequencerTick = s.nextSequencerTick := by cases k <;> rfl
@[simp] theorem emit_sequencerPhase (s : State) (k : Chan) (es : List PortEvent) : (s.emit k es).sequencerPhase = s.sequencerPhase := by cases k <;> rfl
@[simp] theorem emit_ch1 (s : State) (k : Chan) (es : List PortEvent) : (s.emit k es).ch1 = s.ch1 := by cases k <;> rfl
@[simp] theorem emit_ch2 (s : State) (k : Chan) (es : List PortEvent) : (s.emit k es).ch2 = s.ch2 := by cases k <;> rfl
@[simp] theorem emit_sweep (s : State) (k : Chan) (es : List PortEvent) : (s.emit k es).sweep = s.sweep := by cases k <;> rfl
@[simp] theorem emit_masterVolumeLeft (s : State) (k : Chan) (es : List PortEvent) : (s.emit k es).masterVolumeLeft = s.masterVolumeLeft := by cases k <;> rfl
@[simp] theorem emit_masterVolumeRight (s : State) (k : Chan) (es : List PortEvent) : (s.emit k es).masterVolumeRight = s.masterVolumeRight := by cases k <;> rfl
@[simp] theorem emit_faulted (s : State) (k : Chan) (es : List PortEvent) : (s.emit k es).faulted = s.faulted := by cases k <;> rfl
@[simp] theorem emit_sinkChunks (s : State) (k : Chan) (es : List PortEvent) : (s.emit k es).sinkChunks = s.sinkChunks := by cases k <;> rfl
@[simp] theorem emit_readResults (s : State) (k : Chan) (es : List PortEvent) : (s.emit k es).readResults = s.readResults := by cases k <;> rfl
@[simp] theorem emit_commands (s : State) (k : Chan) (es : List PortEvent) : (s.emit k es).commands = s.commands := by cases k <;> rfl

/-! ### deliver -/

@[simp] theorem deliver_poweredOn (s : State) (chunk : Chunk) : (s.deliver chunk).poweredOn = s.poweredOn := rfl
@[simp] theorem deliver_shadow (s : State) (chunk : Chunk) : (s.deliver chunk).shadow = s.shadow := rfl
@[simp] theorem deliver_virtualTime (s : State) (chunk : Chunk) : (s.deliver chunk).virtualTime = s.virtualTime := rfl
@[simp] theorem deliver_prevFlushTime (s : State) (chunk : Chunk) : (s.deliver chunk).prevFlushTime = s.prevFlushTime := rfl
@[simp] theorem deliver_nextSequencerTick (s : State) (chunk : Chunk) : (s.deliver chunk).nextSequencerTick = s.nextSequencerTick := rfl
@[simp] theorem deliver_sequencerPhase (s : State) (chunk : Chunk) : (s.deliver chunk).sequencerPhase = s.sequencerPhase := rfl
@[simp] theorem deliver_ch1 (s : State) (chunk : Chunk) : (s.deliver chunk).ch1 = s.ch1 := rfl
@[simp] theorem deliver_ch2 (s : State) (chunk : Chunk) : (s.deliver chunk).ch2 = s.ch2 := rfl
@[simp] theorem deliver_sweep (s : State) (chunk : Chunk) : (s.deliver chunk).sweep = s.sweep := rfl
@[simp] theorem deliver_masterVolumeLeft (s : State) (chunk : Chunk) : (s.deliver chunk).masterVolumeLeft = s.masterVolumeLeft := rfl
@[simp] theorem deliver_masterVolumeRight (s : State) (chunk : Chunk) : (s.deliver chunk).masterVolumeRight = s.masterVolumeRight := rfl
@[simp] theorem deliver_faulted (s : State) (chunk : Chunk) : (s.deliver chunk).faulted = s.faulted := rfl
@[simp] theorem deliver_acc1 (s : State) (chunk : Chunk) : (s.deliver chunk).acc1 = s.acc1 := rfl
@[simp] theorem deliver_acc2 (s : State) (chunk : Chunk) : (s.deliver chunk).acc2 = s.acc2 := rfl
@[simp] theorem deliver_readResults (s : State) (chunk : Chunk) : (s.deliver chunk).readResults = s.readResults := rfl
@[simp] theorem deliver_commands (s : State) (chunk : Chunk) : (s.deliver chunk).commands = s.commands := rfl
@[simp] theorem deliver_sinkChunks (s : State) (chunk : Chunk) :
    (s.deliver chunk).sinkChunks = s.sinkChunks ++ [chunk] := rfl

/-! ### recordRead -/

@[simp] theorem recordRead_poweredOn (s : State) (b : Byte) : (s.recordRead b).poweredOn = s.poweredOn := rfl
@[simp] theorem recordRead_shadow (s : State) (b : Byte) : (s.recordRead b).shadow = s.shadow := rfl
@[simp] theorem recordRead_virtualTime (s : State) (b : Byte) : (s.recordRead b).virtualTime = s.virtualTime := rfl
@[simp] theorem recordRead_prevFlushTime (s : State) (b : Byte) : (s.recordRead b).prevFlushTime = s.prevFlushTime := rfl
@[simp] theorem recordRead_nextSequencerTick (s : State) (b : Byte) : (s.recordRead b).nextSequencerTick = s.nextSequencerTick := rfl
@[simp] theorem recordRead_sequencerPhase (s : State) (b : Byte) : (s.recordRead b).sequencerPhase = s.sequencerPhase := rfl
@[simp] theorem recordRead_ch1 (s : State) (b : Byte) : (s.recordRead b).ch1 = s.ch1 := rfl
@[simp] theorem recordRead_ch2 (s : State) (b : Byte) : (s.recordRead b).ch2 = s.ch2 := rfl
@[simp] theorem recordRead_sweep (s : State) (b : Byte) : (s.recordRead b).sweep = s.sweep := rfl
@[simp] theorem recordRead_masterVolumeLeft (s : State) (b : Byte) : (s.recordRead b).masterVolumeLeft = s.masterVolumeLeft := rfl
@[simp] theorem recordRead_masterVolumeRight (s : State) (b : Byte) : (s.recordRead b).masterVolumeRight = s.masterVolumeRight := rfl
@[simp] theorem recordRead_faulted (s : State) (b : Byte) : (s.recordRead b).faulted = s.faulted := rfl
@[simp] theorem recordRead_acc1 (s : State) (b : Byte) : (s.recordRead b).acc1 = s.acc1 := rfl
@[simp] theorem recordRead_acc2 (s : State) (b : Byte) : (s.recordRead b).acc2 = s.acc2 := rfl
@[simp] theorem recordRead_sinkChunks (s : State) (b : Byte) : (s.recordRead b).sinkChunks = s.sinkChunks := rfl
@[simp] theorem recordRead_commands (s : State) (b : Byte) : (s.recordRead b).commands = s.commands := rfl
@[simp] theorem recordRead_readResults (s : State) (b : Byte) :
    (s.recordRead b).readResults = s.readResults ++ [b] := rfl

/-! ### storeShadow -/

@[simp] theorem storeShadow_poweredOn (s : State) (o : Nat) (v : Byte) : (s.storeShadow o v).poweredOn = s.poweredOn := rfl
@[simp] theorem storeShadow_virtualTime (s : State) (o : Nat) (v : Byte) : (s.storeShadow o v).virtualTime = s.virtualTime := rfl
@[simp] theorem storeShadow_prevFlushTime (s : State) (o : Nat) (v : Byte) : (s.storeShadow o v).prevFlushTime = s.prevFlushTime := rfl
@[simp] theorem storeShadow_nextSequencerTick (s : State) (o : Nat) (v : Byte) : (s.storeShadow o v).nextSequencerTick = s.nextSequencerTick := rfl
@[simp] theorem storeShadow_sequencerPhase (s : State) (o : Nat) (v : Byte) : (s.storeShadow o v).sequencerPhase = s.sequencerPhase := rfl
@[simp] theorem storeShadow_ch1 (s : State) (o : Nat) (v : Byte) : (s.storeShadow o v).ch1 = s.ch1 := rfl
@[simp] theorem storeShadow_ch2 (s : State) (o : Nat) (v : Byte) : (s.storeShadow o v).ch2 = s.ch2 := rfl
@[simp] theorem storeShadow_sweep (s : State) (o : Nat) (v : Byte) : (s.storeShadow o v).sweep = s.sweep := rfl
@[simp] theorem storeShadow_masterVolumeLeft (s : State) (o : Nat) (v : Byte) : (s.storeShadow o v).masterVolumeLeft = s.masterVolumeLeft := rfl
@[simp] theorem storeShadow_masterVolumeRight (s : State) (o : Nat) (v : Byte) : (s.storeShadow o v).masterVolumeRight = s.masterVolumeRight := rfl
@[simp] theorem storeShadow_faulted (s : State) (o : Nat) (v : Byte) : (s.storeShadow o v).faulted = s.faulted := rfl
@[simp] theorem storeShadow_acc1 (s : State) (o : Nat) (v : Byte) : (s.storeShadow o v).acc1 = s.acc1 := rfl
@[simp] theorem storeShadow_acc2 (s : State) (o : Nat) (v : Byte) : (s.storeShadow o v).acc2 = s.acc2 := rfl
@[simp] theorem storeShadow_sinkChunks (s : State) (o : Nat) (v : Byte) : (s.storeShadow o v).sinkChunks = s.sinkChunks := rfl
@[simp] theorem storeShadow_readResults (s : State) (o : Nat) (v : Byte) : (s.storeShadow o v).readResults = s.readResults := rfl
@[simp] theorem storeShadow_commands (s : State) (o : Nat) (v : Byte) : (s.storeShadow o v).commands = s.commands := rfl
@[simp] theorem storeShadow_shadow (s : State) (o : Nat) (v : Byte) :
    (s.storeShadow o v).shadow = Memory.write s.shadow o v := rfl

/-! ### finalize -/

@[simp] theorem finalize_poweredOn (s : State) : (finalize s).poweredOn = s.poweredOn := rfl
@[simp] theorem finalize_shadow (s : State) : (finalize s).shadow = s.shadow := rfl
@[simp] theorem finalize_virtualTime (s : State) : (finalize s).virtualTime = s.virtualTime := rfl
@[simp] theorem finalize_prevFlushTime (s : State) : (finalize s).prevFlushTime = s.prevFlushTime := rfl
@[simp] theorem finalize_nextSequencerTick (s : State) : (finalize s).nextSequencerTick = s.nextSequencerTick := rfl
@[simp] theorem finalize_sequencerPhase (s : State) : (finalize s).sequencerPhase = s.sequencerPhase := rfl
@[simp] theorem finalize_ch1 (s : State) : (finalize s).ch1 = s.ch1 := rfl
@[simp] theorem finalize_ch2 (s : State) : (finalize s).ch2 = s.ch2 := rfl
@[simp] theorem finalize_sweep (s : State) : (finalize s).sweep = s.sweep := rfl
@[simp] theorem finalize_masterVolumeLeft (s : State) : (finalize s).masterVolumeLeft = s.masterVolumeLeft := rfl
@[simp] theorem finalize_masterVolumeRight (s : State) : (finalize s).masterVolumeRight = s.masterVolumeRight := rfl
@[simp] theorem finalize_faulted (s : State) : (finalize s).faulted = s.faulted := rfl
@[simp] theorem finalize_sinkChunks (s : State) : (finalize s).sinkChunks = s.sinkChunks := rfl
@[simp] theorem finalize_readResults (s : State) : (finalize s).readResults = s.readResults := rfl
@[simp] theorem finalize_commands (s : State) : (finalize s).commands = s.commands := rfl
@[simp] theorem finalize_acc1 (s : State) :
    (finalize s).acc1 = { s.acc1 with events := s.acc1.events ++ [.endFrame s.prevFlushTime] } := rfl
@[simp] theorem finalize_acc2 (s : State) :
    (finalize s).acc2 = { s.acc2 with events := s.acc2.events ++ [.endFrame s.prevFlushTime] } := rfl

/-! ### rebase -/

@[simp] theorem rebase_poweredOn (s : State) : (rebase s).poweredOn = s.poweredOn := rfl
@[simp] theorem rebase_shadow (s : State) : (rebase s).shadow = s.shadow := rfl
@[simp] theorem rebase_sequencerPhase (s : State) : (rebase s).sequencerPhase = s.sequencerPhase := rfl
@[simp] theorem rebase_ch1 (s : State) : (rebase s).ch1 = s.ch1 := rfl
@[simp] theorem rebase_ch2 (s : State) : (rebase s).ch2 = s.ch2 := rfl
@[simp] theorem rebase_sweep (s : State) : (rebase s).sweep = s.sweep := rfl
@[simp] theorem rebase_masterVolumeLeft (s : State) : (rebase s).masterVolumeLeft = s.masterVolumeLeft := rfl
@[simp] theorem rebase_masterVolumeRight (s : State) : (rebase s).masterVolumeRight = s.masterVolumeRight := rfl
@[simp] theorem rebase_faulted (s : State) : (rebase s).faulted = s.faulted := rfl
@[simp] theorem rebase_acc1 (s : State) : (rebase s).acc1 = s.acc1 := rfl
@[simp] theorem rebase_acc2 (s : State) : (rebase s).acc2 = s.acc2 := rfl
@[simp] theorem rebase_sinkChunks (s : State) : (rebase s).sinkChunks = s.sinkChunks := rfl
@[simp] theorem rebase_readResults (s : State) : (rebase s).readResults = s.readResults := rfl
@[simp] theorem rebase_commands (s : State) : (rebase s).commands = s.commands := rfl
@[simp] theorem rebase_virtualTime (s : State) :
    (rebase s).virtualTime = s.virtualTime - s.prevFlushTime := rfl
@[simp] theorem rebase_prevFlushTime (s : State) :
    (rebase s).prevFlushTime = 0 := rfl
@[simp] theorem rebase_nextSequencerTick (s : State) :
    (rebase s).nextSequencerTick = s.nextSequencerTick - s.prevFlushTime := rfl

/-! ### advanceSequencer -/

@[simp] theorem advanceSequencer_poweredOn (s : State) : (advanceSequencer s).poweredOn = s.poweredOn := rfl
@[simp] theorem advanceSequencer_shadow (s : State) : (advanceSequencer s).shadow = s.shadow := rfl
@[simp] theorem advanceSequencer_virtualTime (s : State) : (advanceSequencer s).virtualTime = s.virtualTime := rfl
@[simp] theorem advanceSequencer_ch1 (s : State) : (advanceSequencer s).ch1 = s.ch1 := rfl
@[simp] theorem advanceSequencer_ch2 (s : State) : (advanceSequencer s).ch2 = s.ch2 := rfl
@[simp] theorem advanceSequencer_sweep (s : State) : (advanceSequencer s).sweep = s.sweep := rfl
@[simp] theorem advanceSequencer_masterVolumeLeft (s : State) : (advanceSequencer s).masterVolumeLeft = s.masterVolumeLeft := rfl
@[simp] theorem advanceSequencer_masterVolumeRight (s : State) : (advanceSequencer s).masterVolumeRight = s.masterVolumeRight := rfl
@[simp] theorem advanceSequencer_faulted (s : State) : (advanceSequencer s).faulted = s.faulted := rfl
@[simp] theorem advanceSequencer_acc1 (s : State) : (advanceSequencer s).acc1 = s.acc1 := rfl
@[simp] theorem advanceSequencer_acc2 (s : State) : (advanceSequencer s).acc2 = s.acc2 := rfl
@[simp] theorem advanceSequencer_sinkChunks (s : State) : (advanceSequencer s).sinkChunks = s.sinkChunks := rfl
@[simp] theorem advanceSequencer_readResults (s : State) : (advanceSequencer s).readResults = s.readResults := rfl
@[simp] theorem advanceSequencer_commands (s : State) : (advanceSequencer s).commands = s.commands := rfl
@[simp] theorem advanceSequencer_prevFlushTime (s : State) :
    (advanceSequencer s).prevFlushTime = s.nextSequencerTick := rfl
@[simp] theorem advanceSequencer_nextSequencerTick (s : State) :
    (advanceSequencer s).nextSequencerTick = s.nextSequencerTick + seqPeriod := rfl
@[simp] theorem advanceSequencer_sequencerPhase (s : State) :
    (advanceSequencer s).sequencerPhase = s.sequencerPhase + 1 := rfl

/-! ### lengthSteps -/

@[simp] theorem lengthSteps_poweredOn (s : State) : (lengthSteps s).poweredOn = s.poweredOn := rfl
@[simp] theorem lengthSteps_shadow (s : State) : (lengthSteps s).shadow = s.shadow := rfl
@[simp] theorem lengthSteps_virtualTime (s : State) : (lengthSteps s).virtualTime = s.virtualTime := rfl
@[simp] theorem lengthSteps_prevFlushTime (s : State) : (lengthSteps s).prevFlushTime = s.prevFlushTime := rfl
@[simp] theorem lengthSteps_nextSequencerTick (s : State) : (lengthSteps s).nextSequencerTick = s.nextSequencerTick := rfl
@[simp] theorem lengthSteps_sequencerPhase (s : State) : (lengthSteps s).sequencerPhase = s.sequencerPhase := rfl
@[simp] theorem lengthSteps_sweep (s : State) : (lengthSteps s).sweep = s.sweep := rfl
@[simp] theorem lengthSteps_masterVolumeLeft (s : State) : (lengthSteps s).masterVolumeLeft = s.masterVolumeLeft := rfl
@[simp] theorem lengthSteps_masterVolumeRight (s : State) : (lengthSteps s).masterVolumeRight = s.masterVolumeRight := rfl
@[simp] theorem lengthSteps_faulted (s : State) : (lengthSteps s).faulted = s.faulted := rfl
@[simp] theorem lengthSteps_acc1 (s : State) : (lengthSteps s).acc1 = s.acc1 := rfl
@[simp] theorem lengthSteps_acc2 (s : State) : (lengthSteps s).acc2 = s.acc2 := rfl
@[simp] theorem lengthSteps_sinkChunks (s : State) : (lengthSteps s).sinkChunks = s.sinkChunks := rfl
@[simp] theorem lengthSteps_readResults (s : State) : (lengthSteps s).readResults = s.readResults := rfl
@[simp] theorem lengthSteps_commands (s : State) : (lengthSteps s).commands = s.commands := rfl
@[simp] theorem lengthSteps_ch1 (s : State) :
    (lengthSteps s).ch1 = lengthStep s.ch1 := rfl
@[simp] theorem lengthSteps_ch2 (s : State) :
    (lengthSteps s).ch2 = lengthStep s.ch2 := rfl

/-! ### envSteps -/

@[simp] theorem envSteps_poweredOn (s : State) : (envSteps s).poweredOn = s.poweredOn := rfl
@[simp] theorem envSteps_shadow (s : State) : (envSteps s).shadow = s.shadow := rfl
@[simp] theorem envSteps_virtualTime (s : State) : (envSteps s).virtualTime = s.virtualTime := rfl
@[simp] theorem envSteps_prevFlushTime (s : State) : (envSteps s).prevFlushTime = s.prevFlushTime := rfl
@[simp] theorem envSteps_nextSequencerTick (s : State) : (envSteps s).nextSequencerTick = s.nextSequencerTick := rfl
@[simp] theorem envSteps_sequencerPhase (s : State) : (envSteps s).sequencerPhase = s.sequencerPhase := rfl
@[simp] theorem envSteps_sweep (s : State) : (envSteps s).sweep = s.sweep := rfl
@[simp] theorem envSteps_masterVolumeLeft (s : State) : (envSteps s).masterVolumeLeft = s.masterVolumeLeft := rfl
@[simp] theorem envSteps_masterVolumeRight (s : State) : (envSteps s).masterVolumeRight = s.masterVolumeRight := rfl
@[simp] theorem envSteps_faulted (s : State) : (envSteps s).faulted = s.faulted := rfl
@[simp] theorem envSteps_acc1 (s : State) : (envSteps s).acc1 = s.acc1 := rfl
@[simp] theorem envSteps_acc2 (s : State) : (envSteps s).acc2 = s.acc2 := rfl
@[simp] theorem envSteps_sinkChunks (s : State) : (envSteps s).sinkChunks = s.sinkChunks := rfl
@[simp] theorem envSteps_readResults (s : State) : (envSteps s).readResults = s.readResults := rfl
@[simp] theorem envSteps_commands (s : State) : (envSteps s).commands = s.commands := rfl
@[simp] theorem envSteps_ch1 (s : State) :
    (envSteps s).ch1 = { s.ch1 with env := envStep s.ch1.env } := rfl
@[simp] theorem envSteps_ch2 (s : State) :
    (envSteps s).ch2 = { s.ch2 with env := envStep s.ch2.env } := rfl

/-! ### issue -/

@[simp] theorem issue_poweredOn (s : State) (ws : List Command) : (s.issue ws).poweredOn = s.poweredOn := rfl
@[simp] theorem issue_shadow (s : State) (ws : List Command) : (s.issue ws).shadow = s.shadow := rfl
@[simp] theorem issue_virtualTime (s : State) (ws : List Command) : (s.issue ws).virtualTime = s.virtualTime := rfl
@[simp] theorem issue_prevFlushTime (s : State) (ws : List Command) : (s.issue ws).prevFlushTime = s.prevFlushTime := rfl
@[simp] theorem issue_nextSequencerTick (s : State) (ws : List Command) : (s.issue ws).nextSequencerTick = s.nextSequencerTick := rfl
@[simp] theorem issue_sequencerPhase (s : State) (ws : List Command) : (s.issue ws).sequencerPhase = s.sequencerPhase := rfl
@[simp] theorem issue_ch1 (s : State) (ws : List Command) : (s.issue ws).ch1 = s.ch1 := rfl
@[simp] theorem issue_ch2 (s : State) (ws : List Command) : (s.issue ws).ch2 = s.ch2 := rfl
@[simp] theorem issue_sweep (s : State) (ws : List Command) : (s.issue ws).sweep = s.sweep := rfl
@[simp] theorem issue_masterVolumeLeft (s : State) (ws : List Command) : (s.issue ws).masterVolumeLeft = s.masterVolumeLeft := rfl
@[simp] theorem issue_masterVolumeRight (s : State) (ws : List Command) : (s.issue ws).masterVolumeRight = s.masterVolumeRight := rfl
@[simp] theorem issue_faulted (s : State) (ws : List Command) : (s.issue ws).faulted = s.faulted := rfl
@[simp] theorem issue_acc1 (s : State) (ws : List Command) : (s.issue ws).acc1 = s.acc1 := rfl
@[simp] theorem issue_acc2 (s : State) (ws : List Command) : (s.issue ws).acc2 = s.acc2 := rfl
@[simp] theorem issue_sinkChunks (s : State) (ws : List Command) : (s.issue ws).sinkChunks = s.sinkChunks := rfl
@[simp] theorem issue_readResults (s : State) (ws : List Command) : (s.issue ws).readResults = s.readResults := rfl
@[simp] theorem issue_commands (s : State) (ws : List Command) :
    (s.issue ws).commands = s.commands ++ ws := rfl

/-! ### withFetchWord -/

@[simp] theorem withFetchWord_poweredOn (s : State) (n w : Nat) : (s.withFetchWord n w).poweredOn = s.poweredOn := rfl
@[simp] theorem withFetchWord_shadow (s : State) (n w : Nat) : (s.withFetchWord n w).shadow = s.shadow := rfl
@[simp] theorem withFetchWord_virtualTime (s : State) (n w : Nat) : (s.withFetchWord n w).virtualTime = s.virtualTime := rfl
@[simp] theorem withFetchWord_prevFlushTime (s : State) (n w : Nat) : (s.withFetchWord n w).prevFlushTime = s.prevFlushTime := rfl
@[simp] theorem withFetchWord_nextSequencerTick (s : State) (n w : Nat) : (s.withFetchWord n w).nextSequencerTick = s.nextSequencerTick := rfl
@[simp] theorem withFetchWord_sequencerPhase (s : State) (n w : Nat) : (s.withFetchWord n w).sequencerPhase = s.sequencerPhase := rfl
@[simp] theorem withFetchWord_ch1 (s : State) (n w : Nat) : (s.withFetchWord n w).ch1 = s.ch1 := rfl
@[simp] theorem withFetchWord_ch2 (s : State) (n w : Nat) : (s.withFetchWord n w).ch2 = s.ch2 := rfl
@[simp] theorem withFetchWord_sweep (s : State) (n w : Nat) : (s.withFetchWord n w).sweep = s.sweep := rfl
@[simp] theorem withFetchWord_masterVolumeLeft (s : State) (n w : Nat) : (s.withFetchWord n w).masterVolumeLeft = s.masterVolumeLeft := rfl
@[simp] theorem withFetchWord_masterVolumeRight (s : State) (n w : Nat) : (s.withFetchWord n w).masterVolumeRight = s.masterVolumeRight := rfl
@[simp] theorem withFetchWord_faulted (s : State) (n w : Nat) : (s.withFetchWord n w).faulted = s.faulted := rfl
@[simp] theorem withFetchWord_acc1 (s : State) (n w : Nat) : (s.withFetchWord n w).acc1 = s.acc1 := rfl
@[simp] theorem withFetchWord_acc2 (s : State) (n w : Nat) : (s.withFetchWord n w).acc2 = s.acc2 := rfl
@[simp] theorem withFetchWord_sinkChunks (s : State) (n w : Nat) : (s.withFetchWord n w).sinkChunks = s.sinkChunks := rfl
@[simp] theorem withFetchWord_readResults (s : State) (n w : Nat) : (s.withFetchWord n w).readResults = s.readResults := rfl
@[simp] theorem withFetchWord_commands (s : State) (n w : Nat) :
    (s.withFetchWord n w).commands = BitVec.ofNat 18 (w % 2 ^ n) :: s.commands := rfl

end Sys2Proof.Machine
end

