-- ==== Sys2Proof/Laws/Units.lean ====
section
/-! SUPPORT. One spec lemma per channel unit: what each may change, and the ranges it keeps
(R130 to R141). -/

namespace Sys2Proof.Machine

/-! ### Period -/

theorem calcPeriod_toNat {f : BitVec 12} (h : f.toNat ≤ 2048) : (calcPeriod f).toNat = (2048 - f.toNat) * 4 := by
  rw [calcPeriod, if_pos h, BitVec.toNat_ofNat, Nat.mod_eq_of_lt (by omega)]

theorem calcPeriod_le (f : BitVec 12) : (calcPeriod f).toNat ≤ 8192 := by
  by_cases h : f.toNat ≤ 2048
  · rw [calcPeriod_toNat h]; omega
  · simp [calcPeriod, h]

/-- What `withFrequency` changes: the frequency and the period that belongs to it. -/
theorem withFrequency_ok {ch : Channel} (h : ch.Ok) {f : BitVec 12} (hf : f.toNat ≤ 2048) : (ch.withFrequency f).Ok :=
  { length := h.length, frequency := hf, period := rfl, delay := h.delay, levelLow := h.levelLow,
    levelHigh := h.levelHigh }

/-! ### Envelope -/

/-- An envelope step changes the delay and the volume alone (R134). -/
theorem envStep_frame (e : Envelope) :
    (envStep e).period = e.period ∧ (envStep e).direction = e.direction ∧
      (envStep e).initialVolume = e.initialVolume := by
  unfold envStep; split_ifs <;> simp

/-- The three outcomes of an envelope step (R134). -/
theorem envStep_cases (e : Envelope) :
    ((e.period = 0 ∨ e.delay = 0) ∧ envStep e = e) ∨
      (e.period ≠ 0 ∧ 2 ≤ e.delay.toNat ∧ envStep e = { e with delay := e.delay - 1 }) ∨
      (e.period ≠ 0 ∧ e.delay = 1 ∧
        envStep e = { e with delay := e.period, volume := stepVolume e.direction e.volume }) := by
  unfold envStep
  split_ifs with hp hd h1
  · exact .inl ⟨.inl hp, rfl⟩
  · exact .inl ⟨.inr hd, rfl⟩
  · exact .inr (.inr ⟨hp, by bv_omega, rfl⟩)
  · exact .inr (.inl ⟨hp, by bv_omega, rfl⟩)

/-- The volume step is exact and clamped (R13, R134). -/
theorem stepVolume_toNat (d : EnvDirection) (vol : BitVec 4) :
    (stepVolume d vol).toNat =
      match d with
      | .inc => min 15 (vol.toNat + 1)
      | .dec => vol.toNat - 1 := by
  cases d <;> simp only [stepVolume] <;> split_ifs <;> bv_omega

/-! ### Length -/

/-- A length step changes the length alone (R138). -/
theorem lengthStep_shape (ch : Channel) : ∃ n, lengthStep ch = { ch with length := n } := by
  unfold lengthStep; split_ifs
  · exact ⟨_, rfl⟩
  · exact ⟨ch.length, rfl⟩

theorem lengthStep_length {ch : Channel} (h : ch.length.toNat ≤ 64) :
    (lengthStep ch).length.toNat = if ch.lengthEnabled then min 64 (ch.length.toNat + 1) else ch.length.toNat := by
  unfold lengthStep
  by_cases he : ch.lengthEnabled <;> by_cases hl : ch.length.toNat < 64 <;> simp [he, hl] <;> bv_omega

theorem lengthStep_ok {ch : Channel} (h : ch.Ok) : (lengthStep ch).Ok := by
  have len := lengthStep_length h.length
  have le := h.length
  obtain ⟨n, e⟩ := lengthStep_shape ch
  rw [e] at len ⊢
  refine { h with length := ?_ }
  simp only at len ⊢
  rw [len]; split <;> omega

/-! ### Sweep -/

/-- A recalculation changes the sweep's delay and shadow frequency, and commits a frequency (R136). -/
theorem sweepRecalc_shape (sw : Sweep) (ch : Channel) :
    ∃ d f g, sweepRecalc sw ch = ({ sw with delay := d, shadowFrequency := f }, ch.withFrequency g) := by
  unfold sweepRecalc
  split
  · exact ⟨_, _, _, rfl⟩
  · dsimp only; split
    · exact ⟨_, _, _, rfl⟩
    · exact ⟨_, _, _, rfl⟩

/-- From a working copy in range, a recalculation leaves the sweep and the channel in range (R136). -/
theorem sweepRecalc_ok {sw : Sweep} {ch : Channel} (hs : sw.shadowFrequency.toNat ≤ 2047) (hc : ch.Ok) :
    (sweepRecalc sw ch).1.Ok ∧ (sweepRecalc sw ch).2.Ok := by
  unfold sweepRecalc
  split
  · refine ⟨?_, withFrequency_ok hc (by omega)⟩
    have key : (if sw.shadowFrequency.toNat ≤ sw.shadowFrequency.toNat >>> sw.shift.toNat then (0 : BitVec 12)
        else BitVec.ofNat 12 (sw.shadowFrequency.toNat - sw.shadowFrequency.toNat >>> sw.shift.toNat)).toNat
        ≤ 2047 := by
      generalize sw.shadowFrequency.toNat >>> sw.shift.toNat = offset
      split
      · simp
      · rw [BitVec.toNat_ofNat, Nat.mod_eq_of_lt (by omega)]; omega
    exact ⟨by dsimp only; omega, fun _ => key⟩
  · dsimp only
    split
    · exact ⟨⟨Nat.le_refl 2048, fun h => absurd rfl h⟩, withFrequency_ok hc (by decide)⟩
    · refine ⟨?_, withFrequency_ok hc (by omega)⟩
      have key : (BitVec.ofNat 12 (sw.shadowFrequency.toNat + sw.shadowFrequency.toNat >>> sw.shift.toNat)).toNat
          ≤ 2047 := by
        rw [BitVec.toNat_ofNat, Nat.mod_eq_of_lt (by omega)]; omega
      exact ⟨by dsimp only; omega, fun _ => key⟩

/-- A sweep step changes the sweep's delay and shadow frequency, and channel 1's frequency with its period (R137). -/
theorem sweepStep_shape (s : State) :
    ∃ d f ch, sweepStep s = { s with sweep := { s.sweep with delay := d, shadowFrequency := f }, ch1 := ch } ∧
      (ch = s.ch1 ∨ ∃ g, ch = s.ch1.withFrequency g) := by
  unfold sweepStep
  split_ifs with h1 h2
  · exact ⟨s.sweep.delay, s.sweep.shadowFrequency, s.ch1, rfl, .inl rfl⟩
  · exact ⟨s.sweep.delay, s.sweep.shadowFrequency, s.ch1, rfl, .inl rfl⟩
  · dsimp only
    split_ifs
    · obtain ⟨d, f, g, e⟩ := sweepRecalc_shape { s.sweep with delay := s.sweep.delay - 1 } s.ch1
      exact ⟨d, f, s.ch1.withFrequency g, by simp only [sweepRecalcState, e], .inr ⟨g, rfl⟩⟩
    · exact ⟨s.sweep.delay - 1, s.sweep.shadowFrequency, s.ch1, rfl, .inl rfl⟩

theorem sweepStep_ok {s : State} (hs : s.sweep.Ok) (hc : s.ch1.Ok) : (sweepStep s).sweep.Ok ∧ (sweepStep s).ch1.Ok := by
  unfold sweepStep
  split_ifs with h1 h2
  · exact ⟨hs, hc⟩
  · exact ⟨hs, hc⟩
  · have r := hs.running h2
    dsimp only
    split_ifs
    · exact sweepRecalc_ok (sw := { s.sweep with delay := s.sweep.delay - 1 }) r hc
    · exact ⟨⟨hs.range, fun _ => r⟩, hc⟩

/-! ### Trigger -/

/-- The trigger of channel 2: the restart and the envelope, no sweep (R139). -/
theorem trigger_two (s : State) :
    trigger .two s = { s with ch2 := { s.ch2.restart with env := envTrigger s.ch2.env } } := rfl

/-- The trigger of channel 1: the restart, the envelope, and what a recalculation may change (R139, R136). -/
theorem trigger_one_shape (s : State) : ∃ d f ch, trigger .one s =
    { s with
      sweep := { s.sweep with delay := d, shadowFrequency := f }
      ch1 := { ch with env := envTrigger s.ch1.env } } ∧
    (ch = s.ch1.restart ∨ ∃ g, ch = s.ch1.restart.withFrequency g) := by
  simp only [trigger, sweepTrigger, hasSweep, if_true]
  split_ifs
  · obtain ⟨d, f, g, e⟩ := sweepRecalc_shape { s.sweep with shadowFrequency := s.ch1.restart.frequency } s.ch1.restart
    refine ⟨d, f, s.ch1.restart.withFrequency g, ?_, .inr ⟨g, rfl⟩⟩
    simp only [setCh_one, ch_one, sweepRecalcState, e, envTriggerState]
    rfl
  · exact ⟨s.sweep.delay, s.ch1.restart.frequency, s.ch1.restart, rfl, .inl rfl⟩

/-! ### Generation -/

theorem patternAt_abs (c : Config) (d : BitVec 2) (p : BitVec 3) : patternAt c d p = 1 ∨ patternAt c d p = -1 := by
  unfold patternAt polaritySign; split <;> simp

/-- An amplitude lies in -15 to +15 (R141). -/
theorem amplitude_range (c : Config) (ch : Channel) (p : BitVec 3) :
    -15 ≤ amplitude c ch p ∧ amplitude c ch p ≤ 15 := by
  have hv := ch.env.volume.isLt
  rcases patternAt_abs c ch.duty p with h | h <;> simp only [amplitude, h] <;> omega

/-- What the loop emits adds up to the change of the level, and closes no frame (R143). -/
theorem generateLoop_sum (amp : BitVec 3 → Int) (period endTick fuel : Nat) :
    ∀ cursor phase last, deltaSum (generateLoop amp period endTick fuel cursor phase last).events =
        (generateLoop amp period endTick fuel cursor phase last).lastAmp - last ∧
      endTicks (generateLoop amp period endTick fuel cursor phase last).events = [] := by
  induction fuel with
  | zero => intro cursor phase last; simp [generateLoop, deltaSum, endTicks]
  | succ fuel ih =>
    intro cursor phase last
    obtain ⟨h1, h2⟩ := ih (cursor + period) (phase + 1) (amp phase)
    unfold generateLoop
    split_ifs with hc
    · dsimp only
      split_ifs with he
      · subst he; exact ⟨h1, h2⟩
      · simp only [deltaSum, endTicks, h1, h2, and_true]; omega
    · simp [deltaSum, endTicks]

/-- With enough fuel the loop leaves at the first cursor past `endTick` (R141): the cursor passes it by at most one
period. -/
theorem generateLoop_cursor {amp : BitVec 3 → Int} {period endTick : Nat} (hp : 1 ≤ period) (fuel : Nat) :
    ∀ {cursor : Nat} (phase last), cursor ≤ endTick + period → endTick + 1 ≤ cursor + fuel →
      endTick + 1 ≤ (generateLoop amp period endTick fuel cursor phase last).cursor ∧
        (generateLoop amp period endTick fuel cursor phase last).cursor ≤ endTick + period := by
  induction fuel with
  | zero => intro cursor phase last h1 h2; exact ⟨by simpa [generateLoop] using h2, by simpa [generateLoop] using h1⟩
  | succ fuel ih =>
    intro cursor phase last h1 h2
    unfold generateLoop
    split_ifs with hc
    · exact ih (phase + 1) (amp phase) (by omega) (by omega)
    · exact ⟨by dsimp only; omega, h1⟩

/-- The level the loop leaves is the one it found or an amplitude. -/
theorem generateLoop_level {amp : BitVec 3 → Int} (bound : ∀ p, -15 ≤ amp p ∧ amp p ≤ 15) (period endTick fuel : Nat) :
    ∀ cursor phase {last : Int}, (-15 ≤ last ∧ last ≤ 15) →
      -15 ≤ (generateLoop amp period endTick fuel cursor phase last).lastAmp ∧
        (generateLoop amp period endTick fuel cursor phase last).lastAmp ≤ 15 := by
  induction fuel with
  | zero => intro cursor phase last h; simpa [generateLoop] using h
  | succ fuel ih =>
    intro cursor phase last h
    unfold generateLoop
    split_ifs with hc
    · exact ih (cursor + period) (phase + 1) (bound phase)
    · exact h

/-- The loop's events continue a frame in the order R186 asks for. -/
theorem generateLoop_ordered {amp : BitVec 3 → Int} (bound : ∀ p, -15 ≤ amp p ∧ amp p ≤ 15) (period endTick fuel : Nat) :
    ∀ {cursor : Nat} (phase) {last : Int} {tick : Nat}, (-15 ≤ last ∧ last ≤ 15) → tick ≤ cursor → tick ≤ endTick →
      ∃ t, openTick tick (generateLoop amp period endTick fuel cursor phase last).events = some t ∧ t ≤ endTick := by
  induction fuel with
  | zero => intro cursor phase last tick _ _ h; exact ⟨tick, by simp [generateLoop, openTick], h⟩
  | succ fuel ih =>
    intro cursor phase last tick hl ht he
    have hb := bound phase
    unfold generateLoop
    split_ifs with hc
    · dsimp only
      split_ifs with heq
      · exact ih (phase + 1) hb (by omega) he
      · obtain ⟨t, h1, h2⟩ := ih (cursor := cursor + period) (phase + 1) (tick := cursor) hb (by omega) hc
        refine ⟨t, ?_, h2⟩
        rw [openTick, if_pos ⟨ht, by omega, by omega, by omega⟩]; exact h1
    · exact ⟨tick, by simp [openTick], he⟩

theorem emit_nil (s : State) (k : Chan) : s.emit k [] = s := by cases k <;> simp [State.emit]

/-- Everything `generate` can change: events on its own port, and its channel's phase, level and delay (R140, R141);
the events add up to the change of the level and close no frame. -/
theorem generate_shape (c : Config) (k : Chan) (a b : Nat) (s : State) :
    ∃ es p l d, generate c k a b s = (s.emit k es).setCh k { s.ch k with phase := p, lastAmp := l, delay := d } ∧
      deltaSum es = l - (s.ch k).lastAmp ∧ endTicks es = [] := by
  unfold generate
  split_ifs with hoff
  · unfold generateOff
    dsimp only
    split_ifs with h0
    · exact ⟨[], (s.ch k).phase, (s.ch k).lastAmp, (s.ch k).delay,
        by rw [emit_nil]; exact (setCh_ch s k).symm, by simp [deltaSum], rfl⟩
    · exact ⟨_, (s.ch k).phase, 0, 0, rfl, by simp [deltaSum], rfl⟩
  · unfold generateOn
    dsimp only
    obtain ⟨h1, h2⟩ := generateLoop_sum (amplitude c (s.ch k)) (s.ch k).period.toNat b (b + 1 - a)
      (a + (s.ch k).delay.toNat) (s.ch k).phase (s.ch k).lastAmp
    exact ⟨_, _, _, _, rfl, h1, h2⟩

theorem openTick_append (es fs : List PortEvent) (tick : Nat) :
    openTick tick (es ++ fs) = (openTick tick es).bind fun t => openTick t fs := by
  induction es generalizing tick with
  | nil => rfl
  | cons e es ih =>
    cases e <;> simp only [List.cons_append, openTick] <;> split_ifs <;> simp [ih]

theorem deltaSum_append (es fs : List PortEvent) : deltaSum (es ++ fs) = deltaSum es + deltaSum fs := by
  induction es with
  | nil => simp [deltaSum]
  | cons e es ih => cases e <;> simp only [List.cons_append, deltaSum, ih]; omega

theorem endTicks_append (es fs : List PortEvent) : endTicks (es ++ fs) = endTicks es ++ endTicks fs := by
  induction es with
  | nil => rfl
  | cons e es ih => cases e <;> simp [endTicks, ih]

/-- On one sequencer period, from a channel in range, `generate` keeps the channel in range and continues the port's
frame as R186 asks. -/
theorem generate_ok {c : Config} {k : Chan} {a b : Nat} {s : State} (hc : (s.ch k).Ok) (hab : b = a + seqPeriod)
    (ho : ∃ t, openTick 0 (s.port k).events = some t ∧ t ≤ a) :
    ((generate c k a b s).ch k).Ok ∧
      ∃ t, openTick 0 ((generate c k a b s).port k).events = some t ∧ t ≤ b := by
  obtain ⟨t0, ht0, hle⟩ := ho
  have hlow := hc.levelLow
  have hhigh := hc.levelHigh
  have hd := hc.delay
  unfold generate
  split_ifs with hoff
  · unfold generateOff
    dsimp only
    split_ifs with h0
    · exact ⟨hc, t0, ht0, by simp only [seqPeriod] at hab; omega⟩
    · refine ⟨?_, a, ?_, by simp only [seqPeriod] at hab; omega⟩
      · rw [ch_setCh]
        exact { hc with delay := by simp, levelLow := by simp, levelHigh := by simp }
      · rw [port_setCh, port_emit, openTick_append, ht0]
        simp only [Option.bind_some, openTick]
        rw [if_pos ⟨hle, by omega, by omega, by omega⟩]
  · unfold generateOn
    dsimp only
    have hp : 1 ≤ (s.ch k).period.toNat := by
      by_contra hlt
      have hz : (s.ch k).period = 0 := by bv_omega
      exact hoff (by simp [Channel.off, hz])
    have hp8 : (s.ch k).period.toNat ≤ 8192 := by rw [hc.period]; exact calcPeriod_le _
    have cur := generateLoop_cursor (amp := amplitude c (s.ch k)) (period := (s.ch k).period.toNat) (endTick := b) hp
      (b + 1 - a) (cursor := a + (s.ch k).delay.toNat) (s.ch k).phase (s.ch k).lastAmp
      (by simp only [seqPeriod] at hab; omega) (by omega)
    have lev := generateLoop_level (amplitude_range c (s.ch k)) (s.ch k).period.toNat b (b + 1 - a)
      (a + (s.ch k).delay.toNat) (s.ch k).phase ⟨hlow, hhigh⟩
    obtain ⟨t, h1, h2⟩ := generateLoop_ordered (amplitude_range c (s.ch k)) (s.ch k).period.toNat b (b + 1 - a)
      (cursor := a + (s.ch k).delay.toNat) (s.ch k).phase (tick := t0) ⟨hlow, hhigh⟩ (by omega)
      (by simp only [seqPeriod] at hab; omega)
    refine ⟨?_, t, ?_, h2⟩
    · rw [ch_setCh]
      refine { hc with delay := ?_, levelLow := lev.1, levelHigh := lev.2 }
      rw [BitVec.toNat_ofNat, Nat.mod_eq_of_lt (by omega)]; omega
    · rw [port_setCh, port_emit, openTick_append, ht0]
      exact h1

end Sys2Proof.Machine
end

