-- ==== Sys2Proof/Laws/Sequencer.lean ====
section
/-! SUPPORT. The spec lemmas of the frame sequencer: what a sequencer tick and the catch-up never change, how the
loop unfolds, an induction principle for it, and that it keeps the invariant (R20, R46, R170, R175). -/

namespace Sys2Proof.Machine

/-- What the catch-up leaves alone (R46: "It changes nothing else"), and that it only appends deltas to the ports. -/
structure CatchUpKeeps (s t : State) : Prop where
  poweredOn : t.poweredOn = s.poweredOn
  shadow : t.shadow = s.shadow
  virtualTime : t.virtualTime = s.virtualTime
  masterLeft : t.masterVolumeLeft = s.masterVolumeLeft
  masterRight : t.masterVolumeRight = s.masterVolumeRight
  faulted : t.faulted = s.faulted
  sinkChunks : t.sinkChunks = s.sinkChunks
  readResults : t.readResults = s.readResults
  commands : t.commands = s.commands
  sweepPeriod : t.sweep.period = s.sweep.period
  sweepShift : t.sweep.shift = s.sweep.shift
  sweepDirection : t.sweep.direction = s.sweep.direction
  enabled : ∀ k, (t.ch k).enabled = (s.ch k).enabled
  duty : ∀ k, (t.ch k).duty = (s.ch k).duty
  lengthEnabled : ∀ k, (t.ch k).lengthEnabled = (s.ch k).lengthEnabled
  envPeriod : ∀ k, (t.ch k).env.period = (s.ch k).env.period
  envDirection : ∀ k, (t.ch k).env.direction = (s.ch k).env.direction
  initialVolume : ∀ k, (t.ch k).env.initialVolume = (s.ch k).env.initialVolume
  samplesRead : ∀ k, (t.port k).samplesRead = (s.port k).samplesRead
  appended : ∀ k, ∃ es, (t.port k).events = (s.port k).events ++ es ∧ endTicks es = []

theorem CatchUpKeeps.refl (s : State) : CatchUpKeeps s s := by
  constructor <;> first | rfl | exact fun _ => rfl | exact fun _ => ⟨[], by simp, rfl⟩

theorem CatchUpKeeps.trans {s t u : State} (h : CatchUpKeeps s t) (g : CatchUpKeeps t u) : CatchUpKeeps s u where
  poweredOn := g.poweredOn.trans h.poweredOn
  shadow := g.shadow.trans h.shadow
  virtualTime := g.virtualTime.trans h.virtualTime
  masterLeft := g.masterLeft.trans h.masterLeft
  masterRight := g.masterRight.trans h.masterRight
  faulted := g.faulted.trans h.faulted
  sinkChunks := g.sinkChunks.trans h.sinkChunks
  readResults := g.readResults.trans h.readResults
  commands := g.commands.trans h.commands
  sweepPeriod := g.sweepPeriod.trans h.sweepPeriod
  sweepShift := g.sweepShift.trans h.sweepShift
  sweepDirection := g.sweepDirection.trans h.sweepDirection
  enabled k := (g.enabled k).trans (h.enabled k)
  duty k := (g.duty k).trans (h.duty k)
  lengthEnabled k := (g.lengthEnabled k).trans (h.lengthEnabled k)
  envPeriod k := (g.envPeriod k).trans (h.envPeriod k)
  envDirection k := (g.envDirection k).trans (h.envDirection k)
  initialVolume k := (g.initialVolume k).trans (h.initialVolume k)
  samplesRead k := (g.samplesRead k).trans (h.samplesRead k)
  appended k := by
    obtain ⟨es, h1, h2⟩ := h.appended k
    obtain ⟨fs, g1, g2⟩ := g.appended k
    exact ⟨es ++ fs, by rw [g1, h1, List.append_assoc], by rw [endTicks_append, h2, g2]; rfl⟩

theorem CatchUpKeeps.endTicks {s t : State} (h : CatchUpKeeps s t) (k : Chan) :
    endTicks (t.port k).events = endTicks (s.port k).events := by
  obtain ⟨es, h1, h2⟩ := h.appended k
  rw [h1, endTicks_append, h2, List.append_nil]

theorem generate_keeps (c : Config) (k : Chan) (a b : Nat) (s : State) : CatchUpKeeps s (generate c k a b s) := by
  obtain ⟨es, p, l, d, e, -, he⟩ := generate_shape c k a b s
  rw [e]
  cases k <;> constructor <;>
    first
    | rfl
    | (intro j; cases j <;> rfl)
    | (intro j; cases j <;> first | exact ⟨es, rfl, he⟩ | exact ⟨[], by simp [State.emit], rfl⟩)

theorem lengthSteps_keeps (s : State) : CatchUpKeeps s (lengthSteps s) := by
  obtain ⟨n, e1⟩ := lengthStep_shape s.ch1
  obtain ⟨m, e2⟩ := lengthStep_shape s.ch2
  unfold lengthSteps
  rw [e1, e2]
  constructor <;>
    first
    | rfl
    | (intro j; cases j <;> rfl)
    | (intro j; cases j <;> exact ⟨[], by simp, rfl⟩)

theorem envSteps_keeps (s : State) : CatchUpKeeps s (envSteps s) := by
  obtain ⟨p1, d1, i1⟩ := envStep_frame s.ch1.env
  obtain ⟨p2, d2, i2⟩ := envStep_frame s.ch2.env
  constructor <;>
    first
    | rfl
    | (intro j; cases j <;> first | rfl | assumption)
    | (intro j; cases j <;> exact ⟨[], by simp, rfl⟩)

theorem sweepStep_keeps (s : State) : CatchUpKeeps s (sweepStep s) := by
  obtain ⟨d, f, ch, e, hch⟩ := sweepStep_shape s
  rw [e]
  rcases hch with rfl | ⟨g, rfl⟩ <;> constructor <;>
    first
    | rfl
    | (intro j; cases j <;> rfl)
    | (intro j; cases j <;> exact ⟨[], by simp, rfl⟩)

theorem phaseSteps_keeps (s : State) : CatchUpKeeps s (phaseSteps s) := by
  unfold phaseSteps
  split_ifs
  · exact envSteps_keeps s
  · exact sweepStep_keeps s
  · exact CatchUpKeeps.refl s

theorem advanceSequencer_keeps (s : State) : CatchUpKeeps s (advanceSequencer s) := by
  constructor <;>
    first
    | rfl
    | (intro j; cases j <;> rfl)
    | (intro j; cases j <;> exact ⟨[], by simp, rfl⟩)

theorem sequencerTick_keeps (c : Config) (s : State) : CatchUpKeeps s (sequencerTick c s) :=
  ((((generate_keeps c .one _ _ s).trans (generate_keeps c .two _ _ _)).trans (lengthSteps_keeps _)).trans
    (phaseSteps_keeps _)).trans (advanceSequencer_keeps _)

/-! ### The time counters inside a tick -/

theorem generate_time (c : Config) (k : Chan) (a b : Nat) (s : State) :
    (generate c k a b s).prevFlushTime = s.prevFlushTime ∧
      (generate c k a b s).nextSequencerTick = s.nextSequencerTick ∧
      (generate c k a b s).sequencerPhase = s.sequencerPhase ∧ (generate c k a b s).sweep = s.sweep ∧
      ∀ j, j ≠ k → (generate c k a b s).ch j = s.ch j ∧ (generate c k a b s).port j = s.port j := by
  obtain ⟨es, p, l, d, e, -, -⟩ := generate_shape c k a b s
  rw [e]
  refine ⟨by simp, by simp, by simp, by simp, fun j hj => ⟨?_, ?_⟩⟩
  · rw [ch_setCh_ne _ _ _ _ hj, ch_emit]
  · rw [port_setCh, port_emit_ne _ _ _ _ hj]

theorem phaseSteps_time (s : State) :
    (phaseSteps s).prevFlushTime = s.prevFlushTime ∧ (phaseSteps s).nextSequencerTick = s.nextSequencerTick ∧
      (phaseSteps s).sequencerPhase = s.sequencerPhase := by
  unfold phaseSteps
  split_ifs
  · exact ⟨rfl, rfl, rfl⟩
  · obtain ⟨d, f, ch, e, -⟩ := sweepStep_shape s
    rw [e]; exact ⟨rfl, rfl, rfl⟩
  · exact ⟨rfl, rfl, rfl⟩

/-- What a tick does to the counters (R170). -/
theorem sequencerTick_time (c : Config) (s : State) :
    (sequencerTick c s).prevFlushTime = s.nextSequencerTick ∧
      (sequencerTick c s).nextSequencerTick = s.nextSequencerTick + seqPeriod ∧
      (sequencerTick c s).sequencerPhase = s.sequencerPhase + 1 := by
  simp [sequencerTick, phaseSteps_time, generate_time]

/-! ### The catch-up loop -/

/-- The catch-up does nothing when no tick is due. -/
theorem catchUp_of_not_due (c : Config) {s : State} (h : s.virtualTime < s.nextSequencerTick) : catchUp c s = s := by
  simp [catchUp, catchUpLoop, Nat.not_le.mpr h]

/-- What holds of a state and is kept by every due tick holds after the catch-up. -/
theorem catchUp_induction (c : Config) {P : State → Prop} {s : State} (base : P s)
    (tick : ∀ u, P u → u.nextSequencerTick ≤ u.virtualTime → P (sequencerTick c u)) : P (catchUp c s) := by
  have loop : ∀ fuel u, P u → P (catchUpLoop c fuel u) := by
    intro fuel
    induction fuel with
    | zero => intro u hu; exact hu
    | succ fuel ih =>
      intro u hu
      unfold catchUpLoop
      split_ifs with due
      · exact ih _ (tick u hu due)
      · exact hu
  exact loop _ _ base

/-- The frame of the catch-up (R46). -/
theorem catchUp_keeps (c : Config) (s : State) : CatchUpKeeps s (catchUp c s) :=
  catchUp_induction c (CatchUpKeeps.refl s) fun u hu _ => hu.trans (sequencerTick_keeps c u)

/-- Every due tick runs: on exit none is due (R170). -/
theorem catchUp_exit (c : Config) (s : State) : (catchUp c s).virtualTime < (catchUp c s).nextSequencerTick := by
  have loop : ∀ fuel u, u.virtualTime < u.nextSequencerTick + fuel * seqPeriod →
      (catchUpLoop c fuel u).virtualTime < (catchUpLoop c fuel u).nextSequencerTick := by
    intro fuel
    induction fuel with
    | zero => intro u hu; simpa [catchUpLoop] using hu
    | succ fuel ih =>
      intro u hu
      unfold catchUpLoop
      split_ifs with due
      · refine ih _ ?_
        rw [(sequencerTick_keeps c u).virtualTime, (sequencerTick_time c u).2.1]
        simp only [seqPeriod] at hu ⊢; omega
      · exact Nat.not_le.mp due
  refine loop _ s ?_
  simp only [seqPeriod]; omega

/-- The time invariant through the catch-up (R20). -/
theorem catchUp_timeOk (c : Config) {s : State} (h : TimeOk s) : TimeOk (catchUp c s) := by
  refine catchUp_induction c h fun u hu due => ?_
  obtain ⟨h1, h2, -⟩ := sequencerTick_time c u
  exact ⟨by rw [h1, h2], by rw [h1, (sequencerTick_keeps c u).virtualTime]; exact due⟩

/-! ### The invariant through a tick -/

theorem resampleFrom_append (c : Config) (es fs : List PortEvent) :
    ∀ past, resampleFrom c past (es ++ fs) = resampleFrom c past es ++ resampleFrom c (past ++ es) fs := by
  induction es with
  | nil => intro past; simp [resampleFrom]
  | cons e es ih => intro past; cases e <;> simp [resampleFrom, ih]

/-- Deltas make no sample available (R187). -/
theorem resampleFrom_of_no_end (c : Config) {es : List PortEvent} (h : endTicks es = []) :
    ∀ past, resampleFrom c past es = [] := by
  induction es with
  | nil => intro past; rfl
  | cons e es ih =>
    intro past
    cases e with
    | addDelta t d => exact ih (by simpa [endTicks] using h) _
    | endFrame t => simp [endTicks] at h

theorem resample_append_deltas (c : Config) (es : List PortEvent) {fs : List PortEvent} (h : endTicks fs = []) :
    resample c (es ++ fs) = resample c es := by
  rw [resample, resampleFrom_append, resampleFrom_of_no_end c h, List.append_nil, resample]

theorem ChannelMirrors.of_keeps {m : Memory} {d e f : Nat} {a b : Channel} (h : ChannelMirrors m d e f a)
    (duty : b.duty = a.duty) (p : b.env.period = a.env.period) (dir : b.env.direction = a.env.direction)
    (i : b.env.initialVolume = a.env.initialVolume) (l : b.lengthEnabled = a.lengthEnabled) :
    ChannelMirrors m d e f b :=
  ⟨duty.trans h.duty, p.trans h.envPeriod, dir.trans h.envDirection, i.trans h.initialVolume,
    l.trans h.lengthEnabled⟩

/-- The decoded copies are untouched by whatever the catch-up may do. -/
theorem Mirrors.of_keeps {c : Config} {s t : State} (h : Mirrors c s) (k : CatchUpKeeps s t) : Mirrors c t where
  power := by rw [k.poweredOn, k.shadow]; exact h.power
  left := by rw [k.masterLeft, k.shadow]; exact h.left
  right := by rw [k.masterRight, k.shadow]; exact h.right
  sweepPeriod := by rw [k.sweepPeriod, k.shadow]; exact h.sweepPeriod
  sweepDirection := by rw [k.sweepDirection, k.shadow]; exact h.sweepDirection
  sweepShift := by rw [k.sweepShift, k.shadow]; exact h.sweepShift
  channel1 := by
    rw [k.shadow]
    exact h.channel1.of_keeps (k.duty .one) (k.envPeriod .one) (k.envDirection .one) (k.initialVolume .one)
      (k.lengthEnabled .one)
  channel2 := by
    rw [k.shadow]
    exact h.channel2.of_keeps (k.duty .two) (k.envPeriod .two) (k.envDirection .two) (k.initialVolume .two)
      (k.lengthEnabled .two)

/-- Both generate calls of a tick: ranges, levels and order on both channels. -/
theorem generate_level {c : Config} {k : Chan} {a b : Nat} {s : State}
    (h : deltaSum (s.port k).events = (s.ch k).lastAmp) :
    deltaSum ((generate c k a b s).port k).events = ((generate c k a b s).ch k).lastAmp := by
  obtain ⟨es, p, l, d, e, sum, -⟩ := generate_shape c k a b s
  rw [e, port_setCh, port_emit, ch_setCh, deltaSum_append, h, sum]
  dsimp only; omega

theorem lengthSteps_ch (s : State) (k : Chan) : (lengthSteps s).ch k = lengthStep (s.ch k) := by cases k <;> rfl

/-- The units of a tick touch no port and no level (R170). -/
theorem phaseSteps_port (s : State) (k : Chan) :
    (phaseSteps s).port k = s.port k ∧ ((phaseSteps s).ch k).lastAmp = (s.ch k).lastAmp := by
  unfold phaseSteps
  split_ifs
  · cases k <;> exact ⟨rfl, rfl⟩
  · obtain ⟨d, f, ch, e, hch⟩ := sweepStep_shape s
    rw [e]
    rcases hch with rfl | ⟨g, rfl⟩ <;> cases k <;> exact ⟨rfl, rfl⟩
  · exact ⟨rfl, rfl⟩

theorem phaseSteps_ok {s : State} (hs : s.sweep.Ok) (hc : ∀ k, (s.ch k).Ok) :
    (phaseSteps s).sweep.Ok ∧ ∀ k, ((phaseSteps s).ch k).Ok := by
  unfold phaseSteps
  split_ifs
  · refine ⟨hs, fun k => ?_⟩
    cases k
    · exact { hc .one with }
    · exact { hc .two with }
  · obtain ⟨h1, h2⟩ := sweepStep_ok hs (hc .one)
    refine ⟨h1, fun k => ?_⟩
    cases k
    · exact h2
    · obtain ⟨d, f, ch, e, -⟩ := sweepStep_shape s
      rw [e]; exact hc .two
  · exact ⟨hs, hc⟩

/-- A due tick keeps the invariant. -/
theorem sequencerTick_inv {c : Config} {s : State} (h : Inv c s) (due : s.nextSequencerTick ≤ s.virtualTime) :
    Inv c (sequencerTick c s) := by
  have keeps := sequencerTick_keeps c s
  obtain ⟨t1, t2, -⟩ := sequencerTick_time c s
  -- after the first and the second generate call
  have f1 := generate_time c .one s.prevFlushTime s.nextSequencerTick s
  have o1 := generate_ok (c := c) (h.channels .one) h.time.next (h.ports .one).ordered
  have l1 := generate_level (c := c) (a := s.prevFlushTime) (b := s.nextSequencerTick) (h.ports .one).level
  unfold sequencerTick at keeps t1 t2 ⊢
  generalize hg1 : generate c .one s.prevFlushTime s.nextSequencerTick s = g1 at *
  have e2 := f1.2.2.2.2 .two (by decide)
  have f2 := generate_time c .two s.prevFlushTime s.nextSequencerTick g1
  have o2 := generate_ok (c := c) (k := .two) (s := g1) (by rw [e2.1]; exact h.channels .two) h.time.next
    (by rw [e2.2]; exact (h.ports .two).ordered)
  have l2 := generate_level (c := c) (k := .two) (s := g1) (a := s.prevFlushTime) (b := s.nextSequencerTick)
    (by rw [e2.1, e2.2]; exact (h.ports .two).level)
  generalize hg2 : generate c .two s.prevFlushTime s.nextSequencerTick g1 = g2 at *
  have e1 := f2.2.2.2.2 .one (by decide)
  have chans : ∀ k, (g2.ch k).Ok := fun k => by
    cases k
    · rw [e1.1]; exact o1.1
    · exact o2.1
  have order : ∀ k, ∃ t, openTick 0 (g2.port k).events = some t ∧ t ≤ s.nextSequencerTick := fun k => by
    cases k
    · rw [e1.2]; exact o1.2
    · exact o2.2
  have level : ∀ k, deltaSum (g2.port k).events = (g2.ch k).lastAmp := fun k => by
    cases k
    · rw [e1.1, e1.2]; exact l1
    · exact l2
  have ph := phaseSteps_ok (s := lengthSteps g2) (by simpa [f2, f1] using h.sweep)
    fun k => by rw [lengthSteps_ch]; exact lengthStep_ok (chans k)
  have pp := phaseSteps_port (lengthSteps g2)
  refine
    { running := keeps.faulted.trans h.running
      shadow := by rw [keeps.shadow]; exact h.shadow
      time := ⟨by rw [t1, t2], by rw [t1, keeps.virtualTime]; exact due⟩
      mirrors := h.mirrors.of_keeps keeps
      sweep := ph.1
      channels := fun k => ?_
      ports := fun k => ?_
      frames := (keeps.endTicks .one).trans (h.frames.trans (keeps.endTicks .two).symm) }
  · cases k
    · exact ph.2 .one
    · exact ph.2 .two
  · have port : (advanceSequencer (phaseSteps (lengthSteps g2))).port k = g2.port k := by
      have := (pp k).1; cases k <;> exact this
    have lev : ((advanceSequencer (phaseSteps (lengthSteps g2))).ch k).lastAmp = (g2.ch k).lastAmp := by
      have e := (pp k).2
      rw [lengthSteps_ch] at e
      obtain ⟨n, hn⟩ := lengthStep_shape (g2.ch k)
      rw [hn] at e
      cases k <;> exact e
    obtain ⟨t, h1, h2⟩ := order k
    refine ⟨by rw [port, lev]; exact level k, ⟨t, by rw [port]; exact h1, by rw [t1]; exact h2⟩, ?_⟩
    obtain ⟨es, a1, a2⟩ := keeps.appended k
    rw [keeps.samplesRead k, (h.ports k).drained, a1, resample_append_deltas c _ a2]

/-- The catch-up keeps the invariant. -/
theorem catchUp_inv {c : Config} {s : State} (h : Inv c s) : Inv c (catchUp c s) :=
  catchUp_induction c h fun _ hu due => sequencerTick_inv hu due

end Sys2Proof.Machine
end

