-- ==== Sys2Proof/Laws/Mixer.lean ====
section
/-! SUPPORT. The spec lemmas of the mixer: what the delivery loop may change and delivers, how many samples it reads, and the
outcomes of a mix (R188, R193, R195, R196). -/

namespace Sys2Proof.Machine

theorem samplesAvail_eq (c : Config) (k : Chan) (s : State) :
    samplesAvail c k s = (resample c (s.port k).events).length - (s.port k).samplesRead := by
  simp [samplesAvail, unreadSamples]

/-- A side's gain as one fraction (R194). -/
theorem sideGain_eq (n : Nat) (vol : BitVec 3) : sideGain n vol = if n = 0 then 0 else (vol.toNat : Rat) / (210 * n) := by
  unfold sideGain
  split_ifs with h
  · rfl
  · have hn : (n : Rat) ≠ 0 := by exact_mod_cast h
    field_simp; ring

/-- The delivery loop changes the chunks delivered and the counts of samples read, and appends the chunks (R196). -/
theorem deliverLoop_shape (c : Config) (l r : Side) (fuel : Nat) : ∀ remaining s, ∃ chunks a b,
    deliverLoop c l r fuel remaining s =
      { s with
        sinkChunks := s.sinkChunks ++ chunks
        acc1 := { s.acc1 with samplesRead := a }
        acc2 := { s.acc2 with samplesRead := b } } := by
  induction fuel with
  | zero => intro remaining s; exact ⟨[], s.acc1.samplesRead, s.acc2.samplesRead, by simp [deliverLoop]⟩
  | succ fuel ih =>
    intro remaining s
    unfold deliverLoop
    split_ifs with h0
    · exact ⟨[], s.acc1.samplesRead, s.acc2.samplesRead, by simp⟩
    · obtain ⟨chunks, a, b, e⟩ := ih (remaining - min c.chunk remaining)
        ((dropSamples c .two (min c.chunk remaining) (dropSamples c .one (min c.chunk remaining) s)).deliver
          (List.zipWith (mixSample c l r) (readSamples c .one (min c.chunk remaining) s)
            (readSamples c .two (min c.chunk remaining) s)))
      refine ⟨List.zipWith (mixSample c l r) (readSamples c .one (min c.chunk remaining) s)
        (readSamples c .two (min c.chunk remaining) s) :: chunks, a, b, ?_⟩
      dsimp only
      rw [e]
      simp [dropSamples, State.deliver]

/-- The loop reads as many samples from each port as it is asked to deliver (R196). -/
theorem deliverLoop_reads (c : Config) (l r : Side) (fuel : Nat) : ∀ remaining s, remaining ≤ fuel →
    (∀ k, remaining ≤ samplesAvail c k s) → ∀ k,
      ((deliverLoop c l r fuel remaining s).port k).samplesRead = (s.port k).samplesRead + remaining := by
  induction fuel with
  | zero => intro remaining s h _ k; simp [deliverLoop, Nat.le_zero.mp h]
  | succ fuel ih =>
    intro remaining s h avail k
    unfold deliverLoop
    split_ifs with h0
    · simp [h0]
    · dsimp only
      have hpos : 1 ≤ min c.chunk remaining := by simp only [Config.chunk]; omega
      have hle : min c.chunk remaining ≤ remaining := Nat.min_le_right _ _
      generalize min c.chunk remaining = n at *
      generalize List.zipWith _ _ _ = out
      have a1 := avail .one
      have a2 := avail .two
      rw [samplesAvail_eq] at a1 a2
      simp only [port_one, port_two] at a1 a2
      rw [ih]
      · cases k <;> simp [dropSamples, samplesAvail_eq] <;> omega
      · omega
      · intro j; cases j <;> simp [dropSamples, samplesAvail_eq] <;> omega

/-- What one pass of the delivery loop leaves unread on either port (R188). -/
theorem unreadSamples_pass (c : Config) (k : Chan) {n : Nat} (s : State) (out : Chunk)
    (h1 : n ≤ samplesAvail c .one s) (h2 : n ≤ samplesAvail c .two s) :
    unreadSamples c k ((dropSamples c .two n (dropSamples c .one n s)).deliver out) = (unreadSamples c k s).drop n := by
  have e : samplesAvail c .two (dropSamples c .one n s) = samplesAvail c .two s := rfl
  cases k
  · change (resample c s.acc1.events).drop (s.acc1.samplesRead + min n (samplesAvail c .one s)) =
      ((resample c s.acc1.events).drop s.acc1.samplesRead).drop n
    rw [Nat.min_eq_left h1, List.drop_drop]
  · change (resample c s.acc2.events).drop
        (s.acc2.samplesRead + min n (samplesAvail c .two (dropSamples c .one n s))) =
      ((resample c s.acc2.events).drop s.acc2.samplesRead).drop n
    rw [e, Nat.min_eq_left h2, List.drop_drop]

/-- What the delivery loop delivers when it is asked for every unread sample of both ports (R195, R196): the mixed
samples in order, in chunks of CHUNK of which only the last may be shorter, and none is empty. -/
theorem deliverLoop_chunks (c : Config) (l r : Side) (fuel : Nat) : ∀ remaining s, remaining ≤ fuel →
    (∀ k, samplesAvail c k s = remaining) → ∃ chunks,
      (deliverLoop c l r fuel remaining s).sinkChunks = s.sinkChunks ++ chunks ∧
      chunks.flatten = List.zipWith (mixSample c l r) (unreadSamples c .one s) (unreadSamples c .two s) ∧
      (∀ ch ∈ chunks, 1 ≤ ch.length ∧ ch.length ≤ c.chunk) ∧ ∀ ch ∈ chunks.dropLast, ch.length = c.chunk := by
  induction fuel with
  | zero =>
    intro remaining s h avail
    have h0 : unreadSamples c .one s = [] := List.length_eq_zero_iff.mp ((avail .one).trans (Nat.le_zero.mp h))
    exact ⟨[], by simp [deliverLoop], by simp [h0], by simp, by simp⟩
  | succ fuel ih =>
    intro remaining s h avail
    unfold deliverLoop
    split_ifs with h0
    · have e : unreadSamples c .one s = [] := List.length_eq_zero_iff.mp ((avail .one).trans h0)
      exact ⟨[], by simp, by simp [e], by simp, by simp⟩
    · dsimp only
      have hpos : 1 ≤ min c.chunk remaining := by simp only [Config.chunk]; omega
      have hle : min c.chunk remaining ≤ remaining := Nat.min_le_right _ _
      have hchunk : min c.chunk remaining ≤ c.chunk := Nat.min_le_left _ _
      have hlast : remaining - min c.chunk remaining ≠ 0 → min c.chunk remaining = c.chunk := by omega
      generalize min c.chunk remaining = n at *
      have a1 := avail .one
      have a2 := avail .two
      have len : (List.zipWith (mixSample c l r) (readSamples c .one n s) (readSamples c .two n s)).length = n := by
        unfold samplesAvail at a1 a2
        simp [readSamples, a1, a2, hle]
      have flat : List.zipWith (mixSample c l r) (readSamples c .one n s) (readSamples c .two n s) ++
          List.zipWith (mixSample c l r) ((unreadSamples c .one s).drop n) ((unreadSamples c .two s).drop n) =
          List.zipWith (mixSample c l r) (unreadSamples c .one s) (unreadSamples c .two s) := by
        rw [readSamples, readSamples, ← List.take_zipWith, ← List.drop_zipWith, List.take_append_drop]
      generalize List.zipWith (mixSample c l r) (readSamples c .one n s) (readSamples c .two n s) = out at *
      have unread := fun k => unreadSamples_pass c k s out (n := n) (by omega) (by omega)
      obtain ⟨chunks, e1, e2, e3, e4⟩ := ih (remaining - n)
        ((dropSamples c .two n (dropSamples c .one n s)).deliver out) (by omega) fun k => by
          have := avail k
          unfold samplesAvail at this ⊢
          rw [unread k, List.length_drop, this]
      rw [unread, unread] at e2
      refine ⟨out :: chunks, ?_, ?_, ?_, ?_⟩
      · rw [e1]; simp [dropSamples, State.deliver]
      · rw [List.flatten_cons, e2, flat]
      · intro ch hch
        rcases List.mem_cons.mp hch with rfl | hch
        · exact ⟨len ▸ hpos, len ▸ hchunk⟩
        · exact e3 ch hch
      · intro ch hch
        cases chunks with
        | nil => simp at hch
        | cons c' cs =>
          rw [List.dropLast_cons_cons] at hch
          rcases List.mem_cons.mp hch with rfl | hch
          · rw [len]
            refine hlast fun h0 => ?_
            have : ((List.zipWith (mixSample c l r) ((unreadSamples c .one s).drop n)
                ((unreadSamples c .two s).drop n))).length = 0 := by
              have := avail .one
              unfold samplesAvail at this
              simp [this, h0]
            rw [← e2] at this
            rw [List.flatten_cons, List.length_append] at this
            have := (e3 c' List.mem_cons_self).1
            omega
          · exact e4 ch hch

/-- The outcomes of a mix (R193): the delivery, or the fault with nothing read or delivered. -/
theorem mix_cases (c : Config) (s : State) :
    (samplesAvail c .one s = samplesAvail c .two s ∧
        mix c s = .next (deliverLoop c (leftSide c s) (rightSide c s) (samplesAvail c .one s)
          (samplesAvail c .one s) s)) ∨
      (samplesAvail c .one s ≠ samplesAvail c .two s ∧
        mix c s = .fault (.mixLengthMismatch (samplesAvail c .one s) (samplesAvail c .two s)
          { s with faulted := true })) := by
  unfold mix
  dsimp only
  split_ifs with h
  · exact .inl ⟨h, rfl⟩
  · exact .inr ⟨h, rfl⟩

/-- What a mix that ends in a next state changes: chunks are appended, and every available sample is read. -/
theorem mix_next {c : Config} {s t : State} (h : mix c s = .next t) :
    (∃ chunks a b, t =
      { s with
        sinkChunks := s.sinkChunks ++ chunks
        acc1 := { s.acc1 with samplesRead := a }
        acc2 := { s.acc2 with samplesRead := b } }) ∧
      ∀ k, (t.port k).samplesRead = (s.port k).samplesRead + samplesAvail c k s := by
  rcases mix_cases c s with ⟨eq, e⟩ | ⟨-, e⟩
  · rw [e] at h
    cases h
    refine ⟨deliverLoop_shape c _ _ _ _ s, fun k => ?_⟩
    rw [deliverLoop_reads c _ _ _ _ s (Nat.le_refl _) fun j => by cases j <;> omega]
    cases k <;> omega
  · rw [e] at h; cases h

/-- The number of samples a history makes available is settled by its `EndFrame` ticks (R189 a). -/
theorem resampleFrom_length (c : Config) (es fs : List PortEvent) (h : endTicks es = endTicks fs) :
    ∀ p q, endTicks p = endTicks q → (resampleFrom c p es).length = (resampleFrom c q fs).length := by
  induction es generalizing fs with
  | nil =>
    intro p q _
    rw [resampleFrom_of_no_end c (es := fs) (by simpa [endTicks] using h.symm)]; rfl
  | cons e es ih =>
    cases e with
    | addDelta t d =>
      intro p q hp
      exact ih fs h _ q (by rw [endTicks_append, hp]; simp [endTicks])
    | endFrame t =>
      intro p q hp
      induction fs generalizing q with
      | nil => simp [endTicks] at h
      | cons f fs ihf =>
        cases f with
        | addDelta u d =>
          exact ihf h _ (by rw [endTicks_append, hp]; simp [endTicks])
        | endFrame u =>
          simp only [endTicks, List.cons.injEq] at h
          obtain ⟨rfl, hrest⟩ := h
          have hq : endTicks (p ++ [.endFrame t]) = endTicks (q ++ [.endFrame t]) := by
            rw [endTicks_append, endTicks_append, hp]
          simp [resampleFrom, frameSamples, hq, ih fs hrest _ _ hq]

/-- R189 a: the number of samples a port has made available depends on its `EndFrame` ticks alone. -/
theorem resample_length {c : Config} {es fs : List PortEvent} (h : endTicks es = endTicks fs) :
    (resample c es).length = (resample c fs).length := resampleFrom_length c es fs h [] [] rfl

/-- Samples once made available stay as they are: a longer history only adds later ones (R188: oldest first). -/
theorem resample_prefix (c : Config) (es fs : List PortEvent) : resample c es <+: resample c (es ++ fs) := by
  rw [resample, resample, resampleFrom_append]; exact List.prefix_append _ _

end Sys2Proof.Machine
end

