-- ==== Sys2Proof/Laws/Exec.lean ====
section
/-! SUPPORT. The inversion lemmas of exec and step: everything an operation can do, said once, and that every
operation keeps the invariant's parts. -/

namespace Sys2Proof.Machine

/-- The offsets whose write decodes into nothing (R103, R104). -/
def shadowOnlyOffset (off : Byte) : Prop :=
  off.toNat = 0x05 ∨ (0x0A ≤ off.toNat ∧ off.toNat ≤ 0x13) ∨ off.toNat = 0x15

/-- What a write of `v` at an offset of the block decodes into: the table of R95 step 5. -/
inductive RegisterEffect : Byte → Byte → (State → State) → Prop where
  | sweep (v : Byte) : RegisterEffect 0x00#8 v (writeSweep v)
  | dutyLen1 (v : Byte) : RegisterEffect 0x01#8 v (writeDutyLen .one v)
  | env1 (v : Byte) : RegisterEffect 0x02#8 v (writeEnv .one v)
  | freqLo1 (v : Byte) : RegisterEffect 0x03#8 v (writeFreqLo .one v)
  | freqHi1 (v : Byte) : RegisterEffect 0x04#8 v (writeFreqHi .one v)
  | dutyLen2 (v : Byte) : RegisterEffect 0x06#8 v (writeDutyLen .two v)
  | env2 (v : Byte) : RegisterEffect 0x07#8 v (writeEnv .two v)
  | freqLo2 (v : Byte) : RegisterEffect 0x08#8 v (writeFreqLo .two v)
  | freqHi2 (v : Byte) : RegisterEffect 0x09#8 v (writeFreqHi .two v)
  | masterVol (v : Byte) : RegisterEffect 0x14#8 v (writeMasterVol Config.machine v)
  | power (v : Byte) : RegisterEffect 0x16#8 v (writePower v)
  | shadowOnly (off v : Byte) (h : shadowOnlyOffset off) : RegisterEffect off v writeShadowOnly

theorem operate_next {f : State → Host.Outcome State Fault Refusal} {s t : State} (h : operate f s = .next t) :
    s.faulted = false ∧ f s = .next t := by
  unfold operate at h
  split_ifs at h with hf
  exact ⟨by simpa using hf, h⟩

/-- After the fault every operation is refused (R214). -/
theorem operate_faulted {f : State → Host.Outcome State Fault Refusal} {s : State} (h : s.faulted = true) :
    operate f s = .refused .afterFault := by
  simp [operate, h]

theorem operate_running {f : State → Host.Outcome State Fault Refusal} {s : State} (h : s.faulted = false) :
    operate f s = f s := by
  simp [operate, h]

/-- What a read does (R90). -/
theorem readOffset_next {c : Config} {off : Byte} {s t : State} (h : readOffset c off s = .next t) :
    s.faulted = false ∧ ∃ b, t = (catchUp c s).recordRead b := by
  obtain ⟨hf, h⟩ := operate_next h
  cases h
  exact ⟨hf, _, rfl⟩

/-- What the accepted part of a write does (R95): nothing outside the block or when gated, else the shadow and the
decoding. -/
theorem acceptWrite_cases (off v : Byte) (effect : State → State) (s : State) :
    acceptWrite off v effect s = s ∨
      (off.toNat ≤ 0x16 ∧ (off.toNat = 0x16 ∨ s.poweredOn = true) ∧
        acceptWrite off v effect s = effect (s.storeShadow off.toNat v)) := by
  unfold acceptWrite
  split_ifs with h1 h2
  · exact .inl rfl
  · exact .inl rfl
  · refine .inr ⟨by omega, ?_, rfl⟩
    by_cases he : off.toNat = 0x16
    · exact .inl he
    · exact .inr (by simpa [he] using h2)

/-- What a write does (R95). -/
theorem writeOffset_next {c : Config} {off v : Byte} {effect : State → State} {s t : State}
    (h : writeOffset c off v effect s = .next t) :
    s.faulted = false ∧
      (t = catchUp c s ∨
        (off.toNat ≤ 0x16 ∧ (off.toNat = 0x16 ∨ (catchUp c s).poweredOn = true) ∧
          t = effect ((catchUp c s).storeShadow off.toNat v))) := by
  obtain ⟨hf, h⟩ := operate_next h
  cases h
  exact ⟨hf, acceptWrite_cases off v effect (catchUp c s)⟩

/-- What an operation that ends in a next state can have done: the six cases of R6's four operations. -/
inductive OperationDone (i : Instr) (s t : State) : Prop where
  | read (b : Byte) (h : t = (catchUp Config.machine s).recordRead b)
  | ignored (h : t = catchUp Config.machine s)
  | wrote (off v : Byte) (effect : State → State) (e : RegisterEffect off v effect)
      (open_ : off.toNat = 0x16 ∨ s.poweredOn = true) (h : t = effect ((catchUp Config.machine s).storeShadow off.toNat v))
  | advanced (n : Nat) (hi : i = .adv n) (h : t = advanceTime n s)
  | notDue (hi : i = .flush) (due : s.virtualTime < Config.machine.outputPeriod) (h : t = s)
  | flushed (hi : i = .flush) (due : Config.machine.outputPeriod ≤ s.virtualTime)
      (h : mix Config.machine (closeFrames Config.machine s) = .next t)

theorem operation_of_read {i : Instr} {s t : State} {off : Byte}
    (h : readOffset Config.machine off s = .next t) : s.faulted = false ∧ OperationDone i s t := by
  obtain ⟨hf, b, e⟩ := readOffset_next h
  exact ⟨hf, .read b e⟩

theorem operation_of_write {i : Instr} {s t : State} {off v : Byte} {effect : State → State}
    (e : RegisterEffect off v effect) (h : writeOffset Config.machine off v effect s = .next t) :
    s.faulted = false ∧ OperationDone i s t := by
  obtain ⟨hf, h | ⟨-, hp, h⟩⟩ := writeOffset_next h
  · exact ⟨hf, .ignored h⟩
  · exact ⟨hf, .wrote off v effect e (by rwa [(catchUp_keeps Config.machine s).poweredOn] at hp) h⟩

theorem operation_of_outside {i : Instr} {s t : State} {off v : Byte} {effect : State → State}
    (out : 0x16 < off.toNat) (h : writeOffset Config.machine off v effect s = .next t) :
    s.faulted = false ∧ OperationDone i s t := by
  obtain ⟨hf, h | ⟨le, -, -⟩⟩ := writeOffset_next h
  · exact ⟨hf, .ignored h⟩
  · omega

theorem operation_of_flush {s t : State} (h : flushOp Config.machine s = .next t) :
    s.faulted = false ∧ OperationDone .flush s t := by
  obtain ⟨hf, h⟩ := operate_next h
  split_ifs at h with due
  · exact ⟨hf, .flushed rfl due h⟩
  · cases h; exact ⟨hf, .notDue rfl (Nat.not_le.mp due) rfl⟩

theorem oor18_outside : ∀ lo : BitVec 3, 0x16 < (3#5 ++ lo).toNat := by decide
theorem oor20_outside : ∀ lo : BitVec 5, 0x16 < (1#3 ++ lo).toNat := by decide
theorem oor40_outside : ∀ lo : BitVec 6, 0x16 < (1#2 ++ lo).toNat := by decide
theorem oor80_outside : ∀ lo : BitVec 7, 0x16 < (1#1 ++ lo).toNat := by decide

/-- Everything an instruction that ends in a next state can have done. -/
theorem exec_next_cases {i : Instr} {s t : State} (h : exec i s = .next t) :
    s.faulted = false ∧ OperationDone i s t := by
  cases i
  case adv n =>
    obtain ⟨hf, e⟩ := operate_next (f := fun s => .next (advanceTime n s)) h
    cases e
    exact ⟨hf, .advanced n rfl rfl⟩
  case flush => exact operation_of_flush h
  case wrOor18 lo v => exact operation_of_outside (effect := writeShadowOnly) (oor18_outside lo) h
  case wrOor20 lo v => exact operation_of_outside (effect := writeShadowOnly) (oor20_outside lo) h
  case wrOor40 lo v => exact operation_of_outside (effect := writeShadowOnly) (oor40_outside lo) h
  case wrOor80 lo v => exact operation_of_outside (effect := writeShadowOnly) (oor80_outside lo) h
  case wrOor17 v => exact operation_of_outside (off := 0x17#8) (v := v) (effect := writeShadowOnly) (by decide) h
  case wrCh1Sweep v => exact operation_of_write (.sweep v) h
  case wrCh1Dutylen v => exact operation_of_write (.dutyLen1 v) h
  case wrCh1Env v => exact operation_of_write (.env1 v) h
  case wrCh1Freqlo v => exact operation_of_write (.freqLo1 v) h
  case wrCh1Freqhi v => exact operation_of_write (.freqHi1 v) h
  case wrCh1FreqhiTrig v => exact operation_of_write (.freqHi1 v) h
  case wrCh2Dutylen v => exact operation_of_write (.dutyLen2 v) h
  case wrCh2Env v => exact operation_of_write (.env2 v) h
  case wrCh2Freqlo v => exact operation_of_write (.freqLo2 v) h
  case wrCh2Freqhi v => exact operation_of_write (.freqHi2 v) h
  case wrCh2FreqhiTrig v => exact operation_of_write (.freqHi2 v) h
  case wrMasterVol v => exact operation_of_write (.masterVol v) h
  case wrPowerStatus v => exact operation_of_write (.power v) h
  case wrUnused05 v => exact operation_of_write (off := 0x05#8) (.shadowOnly _ v (by simp [shadowOnlyOffset])) h
  case wrRouting v => exact operation_of_write (off := 0x15#8) (.shadowOnly _ v (by simp [shadowOnlyOffset])) h
  case wrUnused0A v => exact operation_of_write (off := 0x0A#8) (.shadowOnly _ v (by simp [shadowOnlyOffset])) h
  case wrUnused0B v => exact operation_of_write (off := 0x0B#8) (.shadowOnly _ v (by simp [shadowOnlyOffset])) h
  case wrUnused0C v => exact operation_of_write (off := 0x0C#8) (.shadowOnly _ v (by simp [shadowOnlyOffset])) h
  case wrUnused0D v => exact operation_of_write (off := 0x0D#8) (.shadowOnly _ v (by simp [shadowOnlyOffset])) h
  case wrUnused0E v => exact operation_of_write (off := 0x0E#8) (.shadowOnly _ v (by simp [shadowOnlyOffset])) h
  case wrUnused0F v => exact operation_of_write (off := 0x0F#8) (.shadowOnly _ v (by simp [shadowOnlyOffset])) h
  case wrUnused10 v => exact operation_of_write (off := 0x10#8) (.shadowOnly _ v (by simp [shadowOnlyOffset])) h
  case wrUnused11 v => exact operation_of_write (off := 0x11#8) (.shadowOnly _ v (by simp [shadowOnlyOffset])) h
  case wrUnused12 v => exact operation_of_write (off := 0x12#8) (.shadowOnly _ v (by simp [shadowOnlyOffset])) h
  case wrUnused13 v => exact operation_of_write (off := 0x13#8) (.shadowOnly _ v (by simp [shadowOnlyOffset])) h
  all_goals exact operation_of_read h

/-! ### The operations on a running unit -/

/-- What a read does on a running unit (R90). -/
theorem readOffset_running (c : Config) (off : Byte) {s : State} (h : s.faulted = false) :
    readOffset c off s = .next ((catchUp c s).recordRead
      (if off.toNat ≤ 0x16 then regRead off.toNat (catchUp c s) else 0x00#8)) := operate_running h

/-- An accepted write on a running unit (R95). -/
theorem writeOffset_accepted (c : Config) {off : Byte} (v : Byte) (effect : State → State) {s : State}
    (h : s.faulted = false) (inBlock : off.toNat ≤ 0x16) (open_ : off.toNat = 0x16 ∨ s.poweredOn = true) :
    writeOffset c off v effect s = .next (effect ((catchUp c s).storeShadow off.toNat v)) := by
  have p := (catchUp_keeps c s).poweredOn
  refine (operate_running h).trans ?_
  rw [acceptWrite, if_neg (Nat.not_lt.mpr inBlock), if_neg]
  rcases open_ with e | e <;> simp [p, e]

/-- A gated write on a running unit (R107). -/
theorem writeOffset_gated (c : Config) {off : Byte} (v : Byte) (effect : State → State) {s : State}
    (h : s.faulted = false) (gated : off.toNat < 0x16) (power : s.poweredOn = false) :
    writeOffset c off v effect s = .next (catchUp c s) := by
  have p := (catchUp_keeps c s).poweredOn
  refine (operate_running h).trans ?_
  rw [acceptWrite, if_neg (by omega), if_pos]
  simp [p, power]; omega

/-- A write outside the block on a running unit (R106). -/
theorem writeOffset_outside (c : Config) {off : Byte} (v : Byte) (effect : State → State) {s : State}
    (h : s.faulted = false) (out : 0x16 < off.toNat) :
    writeOffset c off v effect s = .next (catchUp c s) := by
  refine (operate_running h).trans ?_
  rw [acceptWrite, if_pos out]

/-- What a write of `v` at an offset decodes into (R95 step 5). -/
def effectOf (off v : Byte) : State → State :=
  match off.toNat with
  | 0x00 => writeSweep v
  | 0x01 => writeDutyLen .one v
  | 0x02 => writeEnv .one v
  | 0x03 => writeFreqLo .one v
  | 0x04 => writeFreqHi .one v
  | 0x06 => writeDutyLen .two v
  | 0x07 => writeEnv .two v
  | 0x08 => writeFreqLo .two v
  | 0x09 => writeFreqHi .two v
  | 0x14 => writeMasterVol Config.machine v
  | 0x16 => writePower v
  | _ => writeShadowOnly

theorem eight_split : ∀ off : Byte, 0x17 < off.toNat →
    (off.toNat < 0x20 → 3#5 ++ off.setWidth 3 = off) ∧
    (¬ off.toNat < 0x20 → off.toNat < 0x40 → 1#3 ++ off.setWidth 5 = off) ∧
    (¬ off.toNat < 0x40 → off.toNat < 0x80 → 1#2 ++ off.setWidth 6 = off) ∧
    (¬ off.toNat < 0x80 → 1#1 ++ off.setWidth 7 = off) := by decide +kernel

/-- A `READ` word is a read of its offset (R60, R73). -/
theorem exec_read_word (off data : Byte) (s : State) :
    exec (decode (packWord 0 off data)) s = readOffset Config.machine off s := by
  have hd : decode (packWord 0 off data) = decodeRead off := by
    simp only [decode, packWord_op, packWord_off]; rfl
  rw [hd]
  by_cases h : off.toNat ≤ 0x17
  · obtain ⟨n, rfl⟩ : ∃ n : Fin 24, off = BitVec.ofNat 8 n :=
      ⟨⟨off.toNat, by omega⟩, by simp⟩
    fin_cases n <;> rfl
  · obtain ⟨a, b, c, d⟩ := eight_split off (by omega)
    unfold decodeRead
    split <;> try omega
    split_ifs with h1 h2 h3
    · change readOffset Config.machine (3#5 ++ off.setWidth 3) s = _; rw [a h1]
    · change readOffset Config.machine (1#3 ++ off.setWidth 5) s = _; rw [b h1 h2]
    · change readOffset Config.machine (1#2 ++ off.setWidth 6) s = _; rw [c h2 h3]
    · change readOffset Config.machine (1#1 ++ off.setWidth 7) s = _; rw [d h3]

/-- A `WRITE` word is a write at its offset (R60, R73). -/
theorem exec_write_word (off v : Byte) (s : State) :
    exec (decode (packWord 1 off v)) s = writeOffset Config.machine off v (effectOf off v) s := by
  have hd : decode (packWord 1 off v) = decodeWrite off v := by
    simp only [decode, packWord_op, packWord_off, packWord_data]; rfl
  rw [hd]
  by_cases h : off.toNat ≤ 0x17
  · obtain ⟨n, rfl⟩ : ∃ n : Fin 24, off = BitVec.ofNat 8 n :=
      ⟨⟨off.toNat, by omega⟩, by simp⟩
    fin_cases n <;> first
      | rfl
      | (simp only [decodeWrite, BitVec.toNat_ofNat]; norm_num; split <;> rfl)
  · obtain ⟨a, b, c, d⟩ := eight_split off (by omega)
    have he : effectOf off v = writeShadowOnly := by unfold effectOf; split <;> first | omega | rfl
    rw [he]
    unfold decodeWrite
    split <;> try omega
    split_ifs with h1 h2 h3
    · change writeOffset Config.machine (3#5 ++ off.setWidth 3) v writeShadowOnly s = _; rw [a h1]
    · change writeOffset Config.machine (1#3 ++ off.setWidth 5) v writeShadowOnly s = _; rw [b h1 h2]
    · change writeOffset Config.machine (1#2 ++ off.setWidth 6) v writeShadowOnly s = _; rw [c h2 h3]
    · change writeOffset Config.machine (1#1 ++ off.setWidth 7) v writeShadowOnly s = _; rw [d h3]

/-- Under the invariant both ports hold equally many samples once the frames are closed (R189). -/
theorem closeFrames_counts {c : Config} {s : State} (h : Inv c s) :
    samplesAvail c .one (closeFrames c s) = samplesAvail c .two (closeFrames c s) := by
  have u := catchUp_inv h
  have d1 := (u.ports .one).drained
  have d2 := (u.ports .two).drained
  have len := resample_length (c := c) (es := (catchUp c s).acc1.events) (fs := (catchUp c s).acc2.events) u.frames
  have len' := resample_length (c := c) (es := (catchUp c s).acc1.events ++ [.endFrame (catchUp c s).prevFlushTime])
    (fs := (catchUp c s).acc2.events ++ [.endFrame (catchUp c s).prevFlushTime])
    (by rw [endTicks_append, endTicks_append, u.frames])
  rw [samplesAvail_eq, samplesAvail_eq]
  simp only [port_one, port_two] at d1 d2
  change (resample c ((catchUp c s).acc1.events ++ [.endFrame (catchUp c s).prevFlushTime])).length -
      (catchUp c s).acc1.samplesRead =
    (resample c ((catchUp c s).acc2.events ++ [.endFrame (catchUp c s).prevFlushTime])).length -
      (catchUp c s).acc2.samplesRead
  rw [d1, d2, len, len']

/-! ### The step -/

/-- A step with a command waiting is exec of what the command decodes to, the command taken (R73; log 1). -/
theorem step_cons {s : State} {w : Command} {rest : List Command} (h : s.commands = w :: rest) :
    step s = exec (decode w) { s with commands := rest } := by
  simp [step, h]

/-- A step with no command waiting changes nothing (log 2). -/
theorem step_nil {s : State} (h : s.commands = []) : step s = .next s := by
  simp [step, h]

end Sys2Proof.Machine
end

