-- ==== Sys2Proof/Laws/Operands.lean ====
section
/-! SUPPORT. The operand forms as arithmetic: each field of a register byte by division and remainder
(R63 to R68, R70), and the frequency after a write of one of its halves (R71). -/

namespace Sys2Proof.Machine

theorem sweepPeriodField_eq : ∀ v : Byte, sweepPeriodField v = BitVec.ofNat 3 (v.toNat / 16) := by decide
theorem sweepDirectionField_eq : ∀ v : Byte,
    sweepDirectionField v = if v.toNat / 8 % 2 = 1 then .sub else .add := by decide
theorem sweepShiftField_eq : ∀ v : Byte, sweepShiftField v = BitVec.ofNat 3 v.toNat := by decide
theorem dutyField_eq : ∀ v : Byte, dutyField v = BitVec.ofNat 2 (v.toNat / 64) := by decide
theorem lengthLoad_eq : ∀ v : Byte, lengthLoad v = BitVec.ofNat 7 (v.toNat % 64) := by decide
theorem initialVolumeField_eq : ∀ v : Byte, initialVolumeField v = BitVec.ofNat 4 (v.toNat / 16) := by decide
theorem envDirectionField_eq : ∀ v : Byte,
    envDirectionField v = if v.toNat / 8 % 2 = 1 then .inc else .dec := by decide
theorem envPeriodField_eq : ∀ v : Byte, envPeriodField v = BitVec.ofNat 3 v.toNat := by decide
theorem triggerField_eq : ∀ v : Byte, triggerField v = decide (128 ≤ v.toNat) := by decide
theorem lengthEnableField_eq : ∀ v : Byte, lengthEnableField v = decide (64 ≤ v.toNat % 128) := by decide
theorem powerField_eq : ∀ v : Byte, powerField v = decide (128 ≤ v.toNat) := by decide
theorem masterLeftField_eq : ∀ (h : Bool) (v : Byte),
    masterLeftField h v = if h then BitVec.ofNat 3 (v.toNat / 16) else BitVec.ofNat 3 v.toNat := by decide
theorem masterRightField_eq : ∀ (h : Bool) (v : Byte),
    masterRightField h v = if h then BitVec.ofNat 3 v.toNat else BitVec.ofNat 3 (v.toNat / 16) := by decide

/-- A 12-bit frequency is its upper four bits and its low byte. -/
theorem frequency_halves (f : BitVec 12) : f.extractLsb' 8 4 ++ f.extractLsb' 0 8 = f := by
  apply BitVec.eq_of_toNat_eq
  rw [BitVec.toNat_append, BitVec.extractLsb'_toNat, BitVec.extractLsb'_toNat,
    ← Nat.shiftLeft_add_eq_or_of_lt (by omega), Nat.shiftLeft_eq, Nat.shiftRight_eq_div_pow, Nat.shiftRight_eq_div_pow]
  omega

/-- The frequency after a low-byte write (R71): bits 10:8 kept, bit 11 cleared. -/
theorem frequencyWithLow_eq (f : BitVec 12) (v : Byte) :
    frequencyWithLow f v = BitVec.ofNat 12 (f.toNat / 256 % 8 * 256 + v.toNat) := by
  have low3 : ∀ hi : BitVec 4, (hi &&& 7#4).toNat = hi.toNat % 8 := by decide
  have parts : frequencyWithLow f v = (f.extractLsb' 8 4 &&& 7#4) ++ v := by
    unfold frequencyWithLow
    have hv : v.setWidth 12 = 0#4 ++ v := by
      apply BitVec.eq_of_toNat_eq
      rw [BitVec.toNat_append]; simp; omega
    conv_lhs => rw [← frequency_halves f]
    rw [show (0x700#12) = 7#4 ++ 0#8 by decide, BitVec.and_append, hv, BitVec.or_append]
    simp
  apply BitVec.eq_of_toNat_eq
  rw [parts, BitVec.toNat_append, ← Nat.shiftLeft_add_eq_or_of_lt (by omega), low3, BitVec.extractLsb'_toNat,
    BitVec.toNat_ofNat, Nat.shiftLeft_eq, Nat.shiftRight_eq_div_pow]
  omega

/-- The frequency after a high-byte write (R71): the low byte kept, bit 11 cleared. -/
theorem frequencyWithHigh_eq (f : BitVec 12) (v : Byte) :
    frequencyWithHigh f v = BitVec.ofNat 12 (f.toNat % 256 + v.toNat % 8 * 256) := by
  have shifted : ∀ b : Byte, (b.extractLsb' 0 3).setWidth 12 <<< 8 = (b.extractLsb' 0 3).setWidth 4 ++ 0#8 := by
    decide
  have low3 : ∀ b : Byte, ((b.extractLsb' 0 3).setWidth 4).toNat = b.toNat % 8 := by decide
  have ones : ∀ b : Byte, b &&& 255#8 = b := by decide
  have parts : frequencyWithHigh f v = (v.extractLsb' 0 3).setWidth 4 ++ f.extractLsb' 0 8 := by
    unfold frequencyWithHigh
    conv_lhs => rw [← frequency_halves f]
    rw [shifted, show (0x0FF#12) = 0#4 ++ 255#8 by decide, BitVec.and_append, BitVec.or_append]
    simp [ones]
  apply BitVec.eq_of_toNat_eq
  rw [parts, BitVec.toNat_append, ← Nat.shiftLeft_add_eq_or_of_lt (by omega), low3, BitVec.extractLsb'_toNat,
    BitVec.toNat_ofNat, Nat.shiftLeft_eq, Nat.shiftRight_eq_div_pow]
  omega

/-- The period of a frequency given as a number (R130). -/
theorem calcPeriod_ofNat {n : Nat} (h : n ≤ 2048) :
    calcPeriod (BitVec.ofNat 12 n) = BitVec.ofNat 14 ((2048 - n) * 4) := by
  unfold calcPeriod
  rw [BitVec.toNat_ofNat, Nat.mod_eq_of_lt (by omega), if_pos h]

end Sys2Proof.Machine
end

