-- ==== Sys2Proof/Laws/PerInstr.lean ====
section
/-! SUPPORT. The per-instruction family EncodesItsRow: the encoder's word of a well-formed instruction belongs to that
instruction's own row of the opcode table. -/

namespace Sys2Proof.Laws.EncodesItsRow

/-- The word of a well-formed instruction matches the row's match under the row's mask. -/
def Statement (i : Instr) : Prop := i.wellFormed = true → i.row.accepts (encode i) = true

theorem and_ones2 : ∀ op : BitVec 2, op &&& 3#2 = op := by decide
theorem and_ones8 : ∀ b : Byte, b &&& 255#8 = b := by decide

/-- A row whose mask is the operation and the whole offset. -/
theorem of_offset (op : BitVec 2) (off data : Byte) (m : String) :
    OpcodeRow.accepts ⟨m, packWord op off 0, 0x3FF00⟩ (packWord op off data) = true := by
  have e : (0x3FF00 : Command) = packWord 3 0xFF 0 := by decide
  simp only [OpcodeRow.accepts, e, packWord_and, beq_iff_eq]
  congr 1 <;> simp [and_ones2, and_ones8]

/-- A row whose mask keeps some bits of the offset. -/
theorem of_offset_bits (op : BitVec 2) (off offMask offMatch data : Byte) (m : String) (h : off &&& offMask = offMatch) :
    OpcodeRow.accepts ⟨m, packWord op offMatch 0, packWord 3 offMask 0⟩ (packWord op off data) = true := by
  simp only [OpcodeRow.accepts, packWord_and, beq_iff_eq, h]
  congr 1 <;> simp [and_ones2]

/-- A row whose mask adds bit 7 of the data to the whole offset. -/
theorem of_bit7 (op : BitVec 2) (off data dataMatch : Byte) (m : String) (h : data &&& 0x80 = dataMatch) :
    OpcodeRow.accepts ⟨m, packWord op off dataMatch, 0x3FF80⟩ (packWord op off data) = true := by
  have e : (0x3FF80 : Command) = packWord 3 0xFF 0x80 := by decide
  simp only [OpcodeRow.accepts, e, packWord_and, beq_iff_eq, h]
  congr 1 <;> simp [and_ones2, and_ones8]

theorem bit7_clear : ∀ v : Byte, (!v.getLsbD 7) = true → v &&& 0x80 = 0 := by decide
theorem bit7_set : ∀ v : Byte, v.getLsbD 7 = true → v &&& 0x80 = 0x80 := by decide

theorem adv (ticks : Nat) : Statement (.adv ticks) := fun _ => beq_iff_eq.mpr (packAdvance_and ticks)
theorem flush : Statement (.flush) := fun _ => by decide
theorem rdCh1Sweep : Statement (.rdCh1Sweep) := fun _ => by decide
theorem rdCh1Dutylen : Statement (.rdCh1Dutylen) := fun _ => by decide
theorem rdCh1Env : Statement (.rdCh1Env) := fun _ => by decide
theorem rdCh1Freqlo : Statement (.rdCh1Freqlo) := fun _ => by decide
theorem rdCh1Freqhi : Statement (.rdCh1Freqhi) := fun _ => by decide
theorem rdUnused05 : Statement (.rdUnused05) := fun _ => by decide
theorem rdCh2Dutylen : Statement (.rdCh2Dutylen) := fun _ => by decide
theorem rdCh2Env : Statement (.rdCh2Env) := fun _ => by decide
theorem rdCh2Freqlo : Statement (.rdCh2Freqlo) := fun _ => by decide
theorem rdCh2Freqhi : Statement (.rdCh2Freqhi) := fun _ => by decide
theorem rdUnused0A : Statement (.rdUnused0A) := fun _ => by decide
theorem rdUnused0B : Statement (.rdUnused0B) := fun _ => by decide
theorem rdUnused0C : Statement (.rdUnused0C) := fun _ => by decide
theorem rdUnused0D : Statement (.rdUnused0D) := fun _ => by decide
theorem rdUnused0E : Statement (.rdUnused0E) := fun _ => by decide
theorem rdUnused0F : Statement (.rdUnused0F) := fun _ => by decide
theorem rdUnused10 : Statement (.rdUnused10) := fun _ => by decide
theorem rdUnused11 : Statement (.rdUnused11) := fun _ => by decide
theorem rdUnused12 : Statement (.rdUnused12) := fun _ => by decide
theorem rdUnused13 : Statement (.rdUnused13) := fun _ => by decide
theorem rdMasterVol : Statement (.rdMasterVol) := fun _ => by decide
theorem rdRouting : Statement (.rdRouting) := fun _ => by decide
theorem rdPowerStatus : Statement (.rdPowerStatus) := fun _ => by decide
theorem rdOor17 : Statement (.rdOor17) := fun _ => by decide
theorem rdOor18 (lo : BitVec 3) : Statement (.rdOor18 lo) := by
  intro _
  have h : ∀ lo : BitVec 3, (3#5 ++ lo : Byte) &&& 0xF8 = 0x18 := by decide
  exact of_offset_bits 0#2 (3#5 ++ lo) 0xF8 0x18 0#8 "RD.OOR" (h lo)
theorem rdOor20 (lo : BitVec 5) : Statement (.rdOor20 lo) := by
  intro _
  have h : ∀ lo : BitVec 5, (1#3 ++ lo : Byte) &&& 0xE0 = 0x20 := by decide
  exact of_offset_bits 0#2 (1#3 ++ lo) 0xE0 0x20 0#8 "RD.OOR" (h lo)
theorem rdOor40 (lo : BitVec 6) : Statement (.rdOor40 lo) := by
  intro _
  have h : ∀ lo : BitVec 6, (1#2 ++ lo : Byte) &&& 0xC0 = 0x40 := by decide
  exact of_offset_bits 0#2 (1#2 ++ lo) 0xC0 0x40 0#8 "RD.OOR" (h lo)
theorem rdOor80 (lo : BitVec 7) : Statement (.rdOor80 lo) := by
  intro _
  have h : ∀ lo : BitVec 7, (1#1 ++ lo : Byte) &&& 0x80 = 0x80 := by decide
  exact of_offset_bits 0#2 (1#1 ++ lo) 0x80 0x80 0#8 "RD.OOR" (h lo)
theorem wrCh1Sweep (v : Byte) : Statement (.wrCh1Sweep v) := fun _ => of_offset 1#2 0x00#8 v "WR.CH1_SWEEP"
theorem wrCh1Dutylen (v : Byte) : Statement (.wrCh1Dutylen v) := fun _ => of_offset 1#2 0x01#8 v "WR.CH1_DUTYLEN"
theorem wrCh1Env (v : Byte) : Statement (.wrCh1Env v) := fun _ => of_offset 1#2 0x02#8 v "WR.CH1_ENV"
theorem wrCh1Freqlo (v : Byte) : Statement (.wrCh1Freqlo v) := fun _ => of_offset 1#2 0x03#8 v "WR.CH1_FREQLO"
theorem wrCh1Freqhi (v : Byte) : Statement (.wrCh1Freqhi v) := fun h => of_bit7 1#2 0x04#8 v 0 "WR.CH1_FREQHI" (bit7_clear v h)
theorem wrCh1FreqhiTrig (v : Byte) : Statement (.wrCh1FreqhiTrig v) := fun h => of_bit7 1#2 0x04#8 v 0x80 "WR.CH1_FREQHI.TRIG" (bit7_set v h)
theorem wrUnused05 (v : Byte) : Statement (.wrUnused05 v) := fun _ => of_offset 1#2 0x05#8 v "WR.UNUSED_05"
theorem wrCh2Dutylen (v : Byte) : Statement (.wrCh2Dutylen v) := fun _ => of_offset 1#2 0x06#8 v "WR.CH2_DUTYLEN"
theorem wrCh2Env (v : Byte) : Statement (.wrCh2Env v) := fun _ => of_offset 1#2 0x07#8 v "WR.CH2_ENV"
theorem wrCh2Freqlo (v : Byte) : Statement (.wrCh2Freqlo v) := fun _ => of_offset 1#2 0x08#8 v "WR.CH2_FREQLO"
theorem wrCh2Freqhi (v : Byte) : Statement (.wrCh2Freqhi v) := fun h => of_bit7 1#2 0x09#8 v 0 "WR.CH2_FREQHI" (bit7_clear v h)
theorem wrCh2FreqhiTrig (v : Byte) : Statement (.wrCh2FreqhiTrig v) := fun h => of_bit7 1#2 0x09#8 v 0x80 "WR.CH2_FREQHI.TRIG" (bit7_set v h)
theorem wrUnused0A (v : Byte) : Statement (.wrUnused0A v) := fun _ => of_offset 1#2 0x0A#8 v "WR.UNUSED_0A"
theorem wrUnused0B (v : Byte) : Statement (.wrUnused0B v) := fun _ => of_offset 1#2 0x0B#8 v "WR.UNUSED_0B"
theorem wrUnused0C (v : Byte) : Statement (.wrUnused0C v) := fun _ => of_offset 1#2 0x0C#8 v "WR.UNUSED_0C"
theorem wrUnused0D (v : Byte) : Statement (.wrUnused0D v) := fun _ => of_offset 1#2 0x0D#8 v "WR.UNUSED_0D"
theorem wrUnused0E (v : Byte) : Statement (.wrUnused0E v) := fun _ => of_offset 1#2 0x0E#8 v "WR.UNUSED_0E"
theorem wrUnused0F (v : Byte) : Statement (.wrUnused0F v) := fun _ => of_offset 1#2 0x0F#8 v "WR.UNUSED_0F"
theorem wrUnused10 (v : Byte) : Statement (.wrUnused10 v) := fun _ => of_offset 1#2 0x10#8 v "WR.UNUSED_10"
theorem wrUnused11 (v : Byte) : Statement (.wrUnused11 v) := fun _ => of_offset 1#2 0x11#8 v "WR.UNUSED_11"
theorem wrUnused12 (v : Byte) : Statement (.wrUnused12 v) := fun _ => of_offset 1#2 0x12#8 v "WR.UNUSED_12"
theorem wrUnused13 (v : Byte) : Statement (.wrUnused13 v) := fun _ => of_offset 1#2 0x13#8 v "WR.UNUSED_13"
theorem wrMasterVol (v : Byte) : Statement (.wrMasterVol v) := fun _ => of_offset 1#2 0x14#8 v "WR.MASTER_VOL"
theorem wrRouting (v : Byte) : Statement (.wrRouting v) := fun _ => of_offset 1#2 0x15#8 v "WR.ROUTING"
theorem wrPowerStatus (v : Byte) : Statement (.wrPowerStatus v) := fun _ => of_offset 1#2 0x16#8 v "WR.POWER_STATUS"
theorem wrOor17 (v : Byte) : Statement (.wrOor17 v) := fun _ => of_offset 1#2 0x17#8 v "WR.OOR"
theorem wrOor18 (lo : BitVec 3) (v : Byte) : Statement (.wrOor18 lo v) := by
  intro _
  have h : ∀ lo : BitVec 3, (3#5 ++ lo : Byte) &&& 0xF8 = 0x18 := by decide
  exact of_offset_bits 1#2 (3#5 ++ lo) 0xF8 0x18 v "WR.OOR" (h lo)
theorem wrOor20 (lo : BitVec 5) (v : Byte) : Statement (.wrOor20 lo v) := by
  intro _
  have h : ∀ lo : BitVec 5, (1#3 ++ lo : Byte) &&& 0xE0 = 0x20 := by decide
  exact of_offset_bits 1#2 (1#3 ++ lo) 0xE0 0x20 v "WR.OOR" (h lo)
theorem wrOor40 (lo : BitVec 6) (v : Byte) : Statement (.wrOor40 lo v) := by
  intro _
  have h : ∀ lo : BitVec 6, (1#2 ++ lo : Byte) &&& 0xC0 = 0x40 := by decide
  exact of_offset_bits 1#2 (1#2 ++ lo) 0xC0 0x40 v "WR.OOR" (h lo)
theorem wrOor80 (lo : BitVec 7) (v : Byte) : Statement (.wrOor80 lo v) := by
  intro _
  have h : ∀ lo : BitVec 7, (1#1 ++ lo : Byte) &&& 0x80 = 0x80 := by decide
  exact of_offset_bits 1#2 (1#1 ++ lo) 0x80 0x80 v "WR.OOR" (h lo)

end Sys2Proof.Laws.EncodesItsRow
end

