-- ==== Sys2Proof/Tests/Slice0.lean ====
section
/-! SUPPORT. The model's own tests: ill-formed terms refused, words written out from the spec's encoding decoded, one
step or one call on a small state against the vectors of spec/95_test_vectors.md (named V10 to V69 below), and a
witness for the hypotheses of every statement that has some. -/

namespace Sys2Proof.Tests

open Sys2Proof Sys2Proof.Machine

/-! ### Helpers -/

/-- The state an outcome goes on in. -/
def nextOf : Host.Outcome State Fault Refusal → Option State
  | .next t => some t
  | _ => none

/-- Powered on, all else reset: the start of V14, V55 and others. -/
def onReset : State := { State.reset with poweredOn := true, shadow := [(0x16, 0x80#8)] }

/-- What `get` reads after one instruction. -/
def after {α : Type} (i : Instr) (s : State) (get : State → α) : Option α := (nextOf (exec i s)).map get

/-- A configuration with every parameter given: V59's output period, V66's chunk size, and as many samples for an
`EndFrame` as its tick counts, each of value 15. -/
def demo : Config :=
  { Config.machine with
    base := 0xFF10
    outputPeriodLessOne := 70223
    chunkLessOne := 1
    frameSampleCount := fun ticks => ticks.getLastD 0
    sampleValue := fun _ _ => 15 }

/-! ### WellFormed: an ill-formed term for each check is refused -/

theorem test_illformed_adv : (Instr.adv 65536).wellFormed = false := by decide
theorem test_illformed_ch1_freqhi : (Instr.wrCh1Freqhi 0x80).wellFormed = false := by decide
theorem test_illformed_ch1_trig : (Instr.wrCh1FreqhiTrig 0x7F).wellFormed = false := by decide
theorem test_illformed_ch2_freqhi : (Instr.wrCh2Freqhi 0x80).wellFormed = false := by decide
theorem test_illformed_ch2_trig : (Instr.wrCh2FreqhiTrig 0x7F).wellFormed = false := by decide

/-! ### Decoding: a word of every row, written out from R60 and R61 -/

theorem test_decode_rd_channel1 :
    [0x00000#18, 0x00100, 0x00200, 0x00300, 0x00400].map decode =
      [.rdCh1Sweep, .rdCh1Dutylen, .rdCh1Env, .rdCh1Freqlo, .rdCh1Freqhi] := by decide
theorem test_decode_rd_channel2 :
    [0x00500#18, 0x00600, 0x00700, 0x00800, 0x00900].map decode =
      [.rdUnused05, .rdCh2Dutylen, .rdCh2Env, .rdCh2Freqlo, .rdCh2Freqhi] := by decide
theorem test_decode_rd_unused :
    [0x00A00#18, 0x00B00, 0x00C00, 0x00D00, 0x00E00, 0x00F00, 0x01000, 0x01100, 0x01200, 0x01300].map decode =
      [.rdUnused0A, .rdUnused0B, .rdUnused0C, .rdUnused0D, .rdUnused0E, .rdUnused0F, .rdUnused10, .rdUnused11,
        .rdUnused12, .rdUnused13] := by decide
theorem test_decode_rd_control :
    [0x01400#18, 0x01500, 0x01600].map decode = [.rdMasterVol, .rdRouting, .rdPowerStatus] := by decide
theorem test_decode_rd_outside :
    [0x01700#18, 0x01800, 0x01FFF, 0x02000, 0x03F00, 0x04000, 0x07F00, 0x08000, 0x0FF00].map decode =
      [.rdOor17, .rdOor18 0, .rdOor18 7, .rdOor20 0, .rdOor20 31, .rdOor40 0, .rdOor40 63, .rdOor80 0,
        .rdOor80 127] := by decide
theorem test_decode_wr_channel1 :
    [0x10012#18, 0x10180, 0x102F0, 0x10300, 0x10447, 0x10484].map decode =
      [.wrCh1Sweep 0x12, .wrCh1Dutylen 0x80, .wrCh1Env 0xF0, .wrCh1Freqlo 0x00, .wrCh1Freqhi 0x47,
        .wrCh1FreqhiTrig 0x84] := by decide
theorem test_decode_wr_channel2 :
    [0x105AB#18, 0x106FF, 0x107A5, 0x10801, 0x1097F, 0x10980].map decode =
      [.wrUnused05 0xAB, .wrCh2Dutylen 0xFF, .wrCh2Env 0xA5, .wrCh2Freqlo 0x01, .wrCh2Freqhi 0x7F,
        .wrCh2FreqhiTrig 0x80] := by decide
theorem test_decode_wr_unused :
    [0x10A55#18, 0x10B01, 0x10C02, 0x10D03, 0x10E04, 0x10F05, 0x11006, 0x11107, 0x11208, 0x11309].map decode =
      [.wrUnused0A 0x55, .wrUnused0B 1, .wrUnused0C 2, .wrUnused0D 3, .wrUnused0E 4, .wrUnused0F 5, .wrUnused10 6,
        .wrUnused11 7, .wrUnused12 8, .wrUnused13 9] := by decide
theorem test_decode_wr_control :
    [0x11477#18, 0x11531, 0x11680].map decode = [.wrMasterVol 0x77, .wrRouting 0x31, .wrPowerStatus 0x80] := by decide
theorem test_decode_wr_outside :
    [0x117FF#18, 0x11801, 0x12002, 0x14003, 0x18004].map decode =
      [.wrOor17 0xFF, .wrOor18 0 1, .wrOor20 0 2, .wrOor40 0 3, .wrOor80 0 4] := by decide
theorem test_decode_adv_flush :
    [0x20000#18, 0x24000, 0x2FFFF, 0x30000, 0x3FFFF].map decode =
      [.adv 0, .adv 16384, .adv 65535, .flush, .flush] := by decide

/-- Three stored bytes, the low one first (log 13): `WR 0x04, 0x84`. -/
theorem test_decode_bytes : decodeBytes [0x84, 0x04, 0x01, 0xAA] = .ok (.wrCh1FreqhiTrig 0x84, [0xAA]) := by rfl
theorem test_decode_bytes_high_bits : decodeBytes [0, 0, 4] = .error .highBitsSet := by rfl
theorem test_decode_bytes_short : decodeBytes [0, 0] = .error .tooFewBytes := by rfl
theorem test_decode_table_word : decodeTableWord 24 0x10484 = some (.wrCh1FreqhiTrig 0x84) := by decide
/-- The word the host places is the next step's command. -/
theorem test_withFetchWord : (nextOf (step (onReset.withFetchWord 24 0x11477))).map (·.masterVolumeLeft) = some 7 := by
  decide

/-! ### READ and WRITE -/

/-- V10: gated while powered off. -/
theorem test_wr_gated : after (.wrMasterVol 0x77) State.reset (fun t => (t.shadow, t.masterVolumeLeft)) = some ([], 0) := by
  decide
/-- V12. -/
theorem test_wr_power_on : after (.wrPowerStatus 0xF0) State.reset (fun t => (t.poweredOn, t.shadow)) =
    some (true, [(0x16, 0xF0)]) := by decide
/-- V19c: power off clears nothing, and the write to the power register is not gated. -/
theorem test_wr_power_off :
    after (.wrPowerStatus 0x7F) { onReset with masterVolumeLeft := 7 } (fun t =>
      (t.poweredOn, Memory.read t.shadow 0x16, t.masterVolumeLeft)) = some (false, 0x7F, 7) := by decide
/-- V13: the low nibble is not returned. -/
theorem test_rd_status_nibble :
    after .rdPowerStatus { onReset with shadow := [(0x16, 0x8F#8)] } (·.readResults) = some [0x80] := by decide
/-- V8: channel 1 on, channel 2 off. -/
theorem test_rd_status_channel1 :
    after .rdPowerStatus { onReset with ch1 := { Channel.reset with enabled := true } } (·.readResults) = some [0x81] := by
  decide
/-- V18: length-silenced though enabled; V44: not while length is disabled. -/
theorem test_rd_status_length :
    after .rdPowerStatus
      { onReset with
        ch1 := { Channel.reset with enabled := true, length := 64, lengthEnabled := true }
        ch2 := { Channel.reset with enabled := true, length := 64 } } (·.readResults) = some [0x82] := by decide
/-- R91's example. -/
theorem test_rd_dutylen : after .rdCh1Dutylen { onReset with shadow := [(0x01, 0xBF#8)] } (·.readResults) = some [0xBF] := by
  decide
/-- V19a. -/
theorem test_rd_unused : after .rdUnused13 { onReset with shadow := [(0x05, 0xAB#8), (0x13, 0x01)] } (·.readResults) =
    some [0x01] := by decide
/-- V19b. -/
theorem test_rd_outside : after (.rdOor80 127) { onReset with readResults := [0xAB] } (·.readResults) = some [0xAB, 0x00] := by
  decide
theorem test_wr_outside : after (.wrOor17 0xFF) onReset id = some onReset := by decide
theorem test_wr_unused : after (.wrUnused0A 0x55) onReset id =
    some { onReset with shadow := [(0x0A, 0x55), (0x16, 0x80)] } := by decide
/-- R96's fields: period 1, direction subtract, shift 2. -/
theorem test_wr_sweep : after (.wrCh1Sweep 0x9A) onReset (fun t => (t.sweep.period, t.sweep.direction, t.sweep.shift)) =
    some (1, .sub, 2) := by decide
/-- V16. -/
theorem test_wr_dutylen : after (.wrCh1Dutylen 0xFF) onReset (fun t => (t.ch1.duty, t.ch1.length)) = some (3, 63) := by decide
theorem test_wr_dutylen_2 : after (.wrCh2Dutylen 0x85) onReset (fun t => (t.ch2.duty, t.ch2.length, t.ch1)) =
    some (2, 5, Channel.reset) := by decide
/-- V21's control byte: initial 14, INC, period 2. -/
theorem test_wr_env : after (.wrCh1Env 0xEA) onReset (fun t => t.ch1.env) = some ⟨2, .inc, 0, 14, 14⟩ := by decide
theorem test_wr_env_2 : after (.wrCh2Env 0xF3) onReset (fun t => (t.ch2.env, t.ch1.env)) =
    some (⟨3, .dec, 0, 15, 15⟩, Envelope.reset) := by decide
/-- V15. -/
theorem test_wr_freqlo :
    after (.wrCh1Freqlo 0xFF) { onReset with ch1 := { Channel.reset with frequency := 1792, period := 1024 } }
      (fun t => (t.ch1.frequency, t.ch1.period)) = some (2047, 4) := by decide
/-- D12: the sentinel bit is cleared. -/
theorem test_wr_freqlo_2 :
    after (.wrCh2Freqlo 0x01) { onReset with ch2 := { Channel.reset with frequency := 2048, period := 0 } }
      (fun t => (t.ch2.frequency, t.ch2.period)) = some (1, 8188) := by decide
/-- V14. -/
theorem test_wr_freqhi :
    after (.wrCh1Freqhi 0x47) onReset (fun t => (t.ch1.frequency, t.ch1.period, t.ch1.lengthEnabled, t.ch1.enabled)) =
      some (1792, 1024, true, false) := by decide
theorem test_wr_freqhi_2 :
    after (.wrCh2Freqhi 0x3C) { onReset with ch2 := { Channel.reset with frequency := 0x3FF, lengthEnabled := true } }
      (fun t => (t.ch2.frequency, t.ch2.period, t.ch2.lengthEnabled)) = some (0x4FF, 3076, false) := by decide
/-- V17: the length is kept. -/
theorem test_wr_trigger :
    after (.wrCh1FreqhiTrig 0xC7)
      { onReset with ch1 := { Channel.reset with frequency := 2047, period := 4, length := 63, delay := 9 } }
      (fun t => (t.ch1.enabled, t.ch1.delay, t.ch1.length, t.ch1.lengthEnabled)) = some (true, 0, 63, true) := by decide
/-- P4's trigger: an active sweep recalculates at once (1024, ADD, shift 2: 1280). -/
theorem test_wr_trigger_sweep :
    after (.wrCh1FreqhiTrig 0x84) { onReset with sweep := ⟨0, 0, 1, 2, .add⟩ }
      (fun t => (t.ch1.frequency, t.ch1.period, t.sweep)) = some (1024, 4096, ⟨1280, 1, 1, 2, .add⟩) := by decide
/-- V19 on channel 2: an expired length restarts; the envelope too. -/
theorem test_wr_trigger_2 :
    after (.wrCh2FreqhiTrig 0x84)
      { onReset with ch2 := { Channel.reset with length := 64, env := ⟨3, .dec, 1, 15, 2⟩ } }
      (fun t => (t.ch2.enabled, t.ch2.length, t.ch2.env)) = some (true, 0, ⟨3, .dec, 3, 15, 15⟩) := by decide
/-- V19d. -/
theorem test_wr_master : after (.wrMasterVol 0xF9) onReset (fun t =>
    (t.masterVolumeLeft, t.masterVolumeRight, Memory.read t.shadow 0x14)) = some (7, 1, 0xF9) := by decide
theorem test_wr_routing : after (.wrRouting 0x31) onReset (·.shadow) = some [(0x15, 0x31), (0x16, 0x80)] := by decide
/-- Writing the unlisted byte removes the entry. -/
theorem test_wr_canonical : after (.wrRouting 0x00) { onReset with shadow := [(0x15, 0x31#8)] } (·.shadow) = some [] := by
  decide

/-! ### ADVANCE and FLUSH -/

/-- V11. -/
theorem test_adv_off : after (.adv 50000) State.reset (·.virtualTime) = some 0 := by decide
/-- R172's example; V58: no tick runs. -/
theorem test_adv_on : after (.adv 65535) { onReset with virtualTime := 100 } (fun t =>
    (t.virtualTime, t.prevFlushTime, t.sequencerPhase)) = some (65635, 0, 0) := by decide
/-- V59. -/
theorem test_flush_not_due : flushOp demo { onReset with virtualTime := 70223 } =
    .next { onReset with virtualTime := 70223 } := by rfl
/-- V59a: four ticks, the two EndFrames, the rebase. -/
theorem test_flush_due : (nextOf (flushOp { demo with frameSampleCount := fun _ => 0 } { onReset with virtualTime := 70224 })).map (fun t =>
    (t.virtualTime, t.prevFlushTime, t.nextSequencerTick, t.sequencerPhase)) = some (4688, 0, 16384, 0) := by decide

/-! ### The units -/

/-- V26, V28, V29, V29a, and 2049. -/
theorem test_period : [0#12, 1024, 2047, 2048, 2049].map calcPeriod = [8192, 4096, 4, 0, 0] := by decide

/-- V20. -/
theorem test_env_dec : (fun e : Envelope => (e.delay, e.volume)) <$>
    [envStep ⟨3, .dec, 3, 15, 15⟩, envStep ⟨3, .dec, 2, 15, 15⟩, envStep ⟨3, .dec, 1, 15, 15⟩] =
      [(2, 15), (1, 15), (3, 14)] := by decide
/-- V21 clamps at 15 and reloads; V22 clamps at 0; V23 period 0; V24 delay 0; V25 stale delay. -/
theorem test_env_bounds : (fun e : Envelope => (e.delay, e.volume)) <$>
    [envStep ⟨2, .inc, 1, 14, 15⟩, envStep ⟨1, .dec, 1, 0, 0⟩, envStep ⟨0, .dec, 0, 5, 5⟩, envStep ⟨2, .dec, 0, 5, 5⟩,
      envStep ⟨0, .dec, 2, 5, 5⟩] = [(2, 15), (1, 0), (0, 5), (0, 5), (2, 5)] := by decide

/-- One recalculation from the vectors' start: sweep period 1, both frequencies `f`. -/
def recalc (f : BitVec 12) (d : SweepDirection) (shift : BitVec 3) : BitVec 12 × BitVec 3 × BitVec 12 × BitVec 14 :=
  let r := sweepRecalc ⟨f, 0, 1, shift, d⟩ { Channel.reset with frequency := f }
  (r.1.shadowFrequency, r.1.delay, r.2.frequency, r.2.period)

/-- V30, V31, V32, V33, V37, V38. -/
theorem test_sweep_add :
    [recalc 1024 .add 1, recalc 1536 .add 1, recalc 1365 .add 1, recalc 1366 .add 1, recalc 100 .add 7,
      recalc 2047 .add 7] =
    [(1536, 1, 1024, 4096), (2048, 0, 2048, 0), (2047, 1, 1365, 2732), (2048, 0, 2048, 0), (100, 1, 100, 7792),
      (2048, 0, 2048, 0)] := by decide
/-- V34, V35, V36. -/
theorem test_sweep_sub :
    [recalc 1024 .sub 1, recalc 1 .sub 1, recalc 0 .sub 3] =
      [(512, 1, 1024, 4096), (1, 1, 1, 8188), (0, 1, 0, 8192)] := by decide
/-- R137: counts down, and at 0 stays. -/
theorem test_sweep_step :
    [sweepStep { onReset with sweep := ⟨7, 3, 3, 1, .add⟩ }, sweepStep { onReset with sweep := ⟨7, 0, 3, 1, .add⟩ },
      sweepStep { onReset with sweep := ⟨7, 2, 3, 0, .add⟩ }].map (·.sweep.delay) = [2, 0, 2] := by decide

/-- V41, V42, V43. -/
theorem test_length :
    [lengthStep { Channel.reset with length := 64, lengthEnabled := true },
      lengthStep { Channel.reset with length := 10 },
      lengthStep { Channel.reset with length := 63, lengthEnabled := true }].map (·.length) = [64, 10, 64] := by decide

/-- P1's first interval: duty 2, volume 15, period 4096. -/
theorem test_generate_on :
    (fun t : State => (t.acc1.events, t.ch1.phase, t.ch1.lastAmp, t.ch1.delay))
      (generate demo .one 0 16384
        { onReset with
          ch1 := { Channel.reset with
            enabled := true, duty := 2, frequency := 1024, period := 4096, env := ⟨0, .dec, 0, 15, 15⟩ } }) =
      ([.addDelta 0 (-15), .addDelta 8192 30], 5, 15, 4096) := by rfl
/-- V52: an off channel returns to 0 at the interval's start. -/
theorem test_generate_off :
    (fun t : State => (t.acc1.events, t.ch1.lastAmp, t.ch1.delay, t.ch1.phase))
      (generate demo .one 98304 114688
        { onReset with ch1 := { Channel.reset with enabled := true, period := 0, lastAmp := 10, delay := 7, phase := 5 } }) =
      ([.addDelta 98304 (-10)], 0, 0, 5) := by decide
/-- V53: nothing happens without a level. -/
theorem test_generate_off_silent :
    (generate demo .one 0 16384 { onReset with ch1 := { Channel.reset with delay := 4096 } }).ch1.delay = 4096 := by decide

/-- V9 and R239: the sequencer's 256 Hz, and the tone of frequency 1024, one waveform in 8 phase steps. -/
theorem test_rates : (clockHz = 2 ^ 22 ∧ clockHz / seqPeriod = 256) ∧
    clockHz / (8 * (calcPeriod 1024).toNat) = 131072 / (2048 - 1024) := by decide

/-- V55, V56: a read runs the due tick, and the tick of phase 0 is the first. -/
theorem test_catchUp : [{ onReset with virtualTime := 16383 }, { onReset with virtualTime := 16384 }].map (fun s =>
    let t := catchUp demo s
    (t.prevFlushTime, t.nextSequencerTick, t.sequencerPhase)) = [(0, 16384, 0), (16384, 32768, 1)] := by decide
/-- V57: three ticks. -/
theorem test_catchUp_three : (fun t : State => (t.prevFlushTime, t.nextSequencerTick, t.sequencerPhase))
    (catchUp demo { onReset with virtualTime := 65535 }) = (49152, 65536, 3) := by decide

/-! ### The mixer -/

/-- The two gains under a master volume and a routing byte. -/
def gains (leftIsHigh : Bool) (vol route : Byte) : Rat × Rat :=
  let c := { demo with leftIsHigh := leftIsHigh }
  let s := writeMasterVol c vol { onReset with shadow := Memory.write [] 0x15 route }
  ((leftSide c s).gain, (rightSide c s).gain)

/-- V60 to V62. -/
theorem test_gains : [gains true 0x77 0x11, gains true 0x77 0x33, gains true 0x73 0x31] =
    [(1 / 30, 1 / 30), (1 / 60, 1 / 60), (1 / 60, 1 / 70)] := by decide +kernel
/-- V63, V64, V69. -/
theorem test_gains_edges : [gains true 0x77 0x00, gains true 0x00 0xFF, gains false 0x73 0x31] =
    [(0, 0), (0, 0), (1 / 70, 1 / 60)] := by decide +kernel
/-- V65. -/
theorem test_mix_samples :
    List.zipWith (mixSample demo (makeSide true true 7) (makeSide true false 3)) [15, -15, 0] [15, 15, -15] =
      [(1 / 2, 3 / 14), (0, -3 / 14), (-1 / 4, 0)] := by decide +kernel

/-- Two ports that have closed one frame each, at ticks `a` and `b`. -/
def closedAt (a b : Nat) : State := { onReset with acc1 := ⟨[.endFrame a], 0⟩, acc2 := ⟨[.endFrame b], 0⟩ }

/-- V66: five samples in chunks of two. -/
theorem test_mix_chunks : (nextOf (mix demo (closedAt 5 5))).map (fun t => (t.sinkChunks.map List.length, t.acc2.samplesRead)) =
    some ([2, 2, 1], 5) := by decide
/-- V67. -/
theorem test_mix_mismatch : mix demo (closedAt 10 9) = .fault (.mixLengthMismatch 10 9 { closedAt 10 9 with faulted := true }) := by
  rfl
/-- V68. -/
theorem test_mix_nothing : mix demo (closedAt 0 0) = .next (closedAt 0 0) := by rfl

/-! ### Witnesses: a state and operands that meet each statement's hypotheses, at the boundary of each clause -/

/-- A state in which channel 1 sounds, its length runs and its sweep is active, one tick before a boundary. -/
def sounding : State :=
  { onReset with
    virtualTime := 16383
    ch1 := { Channel.reset with
      enabled := true, duty := 2, frequency := 1024, period := 4096, length := 64, env := ⟨7, .inc, 7, 14, 14⟩ }
    sweep := ⟨1024, 7, 7, 7, .add⟩ }

theorem witness_DecodeInvertsEncode :
    (Instr.adv 65535).wellFormed = true ∧ (Instr.wrCh1Freqhi 0x7F).wellFormed = true ∧
      (Instr.wrCh2FreqhiTrig 0x80).wellFormed = true ∧ (Instr.rdOor80 127).wellFormed = true := by decide

theorem witness_EveryWordBelongsToOneRow :
    (Instr.wrCh1Freqhi 0).row.accepts 0x1047F = true ∧ (Instr.rdOor80 0).row.accepts 0x0FFFF = true := by decide

theorem witness_EveryCommandWordHasAnEffect :
    State.reset.faulted = false ∧ (0x2FFFF#18).toNat < 0x30000 ∧ 0x30000 ≤ (0x30000#18).toNat := by decide

theorem witness_StepRunsTheNextCommand :
    (onReset.withFetchWord 24 0x10484).commands = 0x10484 :: [] ∧ (Instr.wrCh1FreqhiTrig 0x84).wellFormed = true ∧
      (onReset.withFetchWord 24 0x10484).commands = encode (.wrCh1FreqhiTrig 0x84) :: [] ∧ State.reset.commands = [] := by
  decide

/-- The first and the last address of the block. -/
theorem witness_AddressSelectsTheRegister : ∀ addr ∈ [Config.machine.base, Config.machine.base + 0x16],
    onReset.faulted = false ∧ onReset.poweredOn = true ∧ Config.machine.base ≤ addr ∧
      addr ≤ Config.machine.base + 0x16 := by
  simp [onReset, State.reset]

/-- The first address past the block (BASE is open: an address below it exists unless BASE is 0). -/
theorem witness_OutsideTheBlockReadsZeroAndIgnoresWrites : State.reset.faulted = false ∧
    Instr.rdOor80 127 ∈ [Instr.rdOor17, .rdOor18 7, .rdOor20 31, .rdOor40 63, .rdOor80 127] ∧
    Instr.wrOor17 0xFF ∈ [Instr.wrOor17 0xFF, .wrOor18 0 0xFF, .wrOor20 0 0xFF, .wrOor40 0 0xFF, .wrOor80 0 0xFF] ∧
    Config.machine.base + 0x16 < Config.machine.base + 0x17 ∧ ∀ addr < Config.machine.base, addr < Config.machine.base := by
  refine ⟨rfl, by decide, by decide, by omega, fun _ h => h⟩

theorem witness_ReadReturnsTheShadowByte : State.reset.faulted = false ∧
    ∀ p ∈ [(Instr.rdCh1Sweep, 0x00), (.rdRouting, 0x15)],
      p ∈ [(Instr.rdCh1Sweep, 0x00), (.rdCh1Dutylen, 0x01), (.rdCh1Env, 0x02), (.rdCh1Freqlo, 0x03),
        (.rdCh1Freqhi, 0x04), (.rdUnused05, 0x05), (.rdCh2Dutylen, 0x06), (.rdCh2Env, 0x07), (.rdCh2Freqlo, 0x08),
        (.rdCh2Freqhi, 0x09), (.rdUnused0A, 0x0A), (.rdUnused0B, 0x0B), (.rdUnused0C, 0x0C), (.rdUnused0D, 0x0D),
        (.rdUnused0E, 0x0E), (.rdUnused0F, 0x0F), (.rdUnused10, 0x10), (.rdUnused11, 0x11), (.rdUnused12, 0x12),
        (.rdUnused13, 0x13), (.rdMasterVol, 0x14), (.rdRouting, 0x15)] := by decide

theorem witness_StatusReadReturnsNibbleAndOnBits : State.reset.faulted = false ∧ onReset.faulted = false := by decide

/-- A read with no tick due, and one with a tick due. -/
theorem witness_ReadChangesOnlyWhatTheCatchUpDoes :
    (∃ t, exec (decode (packWord 0 0x16 0xFF)) sounding = .next t) ∧ sounding.virtualTime < sounding.nextSequencerTick ∧
      ∃ t, exec (decode (packWord 0 0xFF 0)) { sounding with virtualTime := 16384 } = .next t :=
  ⟨⟨_, rfl⟩, by decide, ⟨_, rfl⟩⟩

theorem witness_RepeatedReadReturnsTheSameByte : ∃ t u, exec (decode (packWord 0 0x16 0)) sounding = .next t ∧
    exec (decode (packWord 0 0x16 0)) t = .next u := ⟨_, _, rfl, rfl⟩

theorem witness_PowerGateIgnoresWrites : State.reset.faulted = false ∧ State.reset.poweredOn = false ∧
    (0x15#8).toNat < 0x16 ∧ ∃ u, exec (decode (packWord 0 0x15 0)) (catchUp Config.machine State.reset) = .next u :=
  ⟨rfl, rfl, by decide, ⟨_, rfl⟩⟩

/-- The hypotheses of every register write: WriteSweepLoadsItsFields, WriteDutyLenLoadsItsFields,
WriteEnvelopeLoadsItsFields, WriteFreqLoLoadsTheLowByte, WriteMasterVolumeLoadsBothSides, WritePowerSetsThePower. -/
theorem witness_WriteLoadsItsFields : sounding.faulted = false ∧ sounding.poweredOn = true ∧
    State.reset.faulted = false := by decide

theorem witness_WriteFreqHiWithoutTrigger : sounding.faulted = false ∧ sounding.poweredOn = true ∧
    (0x7F#8).toNat < 128 := by decide

/-- TriggerRestartsChannelTwo and TriggerRestartsChannelOneAndItsSweep, with and without an overflow. -/
theorem witness_TriggerRestarts : sounding.faulted = false ∧ sounding.poweredOn = true ∧ 128 ≤ (0x80#8).toNat ∧
    (after (.wrCh1FreqhiTrig 0x87) { sounding with ch1 := { sounding.ch1 with frequency := 0xFF } } (·.sweep)) =
      some ⟨2048, 0, 7, 7, .add⟩ ∧
    (after (.wrCh1FreqhiTrig 0x80) sounding (·.sweep)) = some ⟨0, 7, 7, 7, .add⟩ := by decide

theorem witness_WriteRoutingAndUnusedOnlyStore : onReset.faulted = false ∧ onReset.poweredOn = true ∧
    (Instr.wrUnused13 0xFF, 0x13) ∈ [(Instr.wrRouting 0xFF, 0x15), (.wrUnused05 0xFF, 0x05), (.wrUnused0A 0xFF, 0x0A),
      (.wrUnused0B 0xFF, 0x0B), (.wrUnused0C 0xFF, 0x0C), (.wrUnused0D 0xFF, 0x0D), (.wrUnused0E 0xFF, 0x0E),
      (.wrUnused0F 0xFF, 0x0F), (.wrUnused10 0xFF, 0x10), (.wrUnused11 0xFF, 0x11), (.wrUnused12 0xFF, 0x12),
      (.wrUnused13 0xFF, 0x13)] := by decide

/-- The same offset, and another one. -/
theorem witness_WrittenByteReadsBack : Memory.wf onReset.shadow = true ∧ onReset.poweredOn = true ∧
    (0x15#8).toNat < 0x16 ∧ (0x00#8).toNat < 0x16 ∧
    ∃ t, exec (decode (packWord 1 0x15 0xFF)) onReset = .next t ∧
      (∃ u, exec (decode (packWord 0 0x15 0)) t = .next u) ∧ ∃ u, exec (decode (packWord 0 0x00 0)) t = .next u :=
  ⟨rfl, rfl, by decide, by decide, _, rfl, ⟨_, rfl⟩, ⟨_, rfl⟩⟩

theorem witness_FrequencyIsWrittenInTwoHalves : sounding.poweredOn = true ∧
    sounding.virtualTime < sounding.nextSequencerTick ∧ (0x7F#8).toNat < 128 ∧
    (∃ t u, exec (.wrCh1Freqlo 0xFF) sounding = .next t ∧ exec (.wrCh1Freqhi 0x7F) t = .next u) ∧
    ∃ t u, exec (.wrCh2Freqlo 0xFF) sounding = .next t ∧ exec (.wrCh2Freqhi 0x7F) t = .next u :=
  ⟨rfl, by decide, by decide, ⟨_, _, rfl, rfl⟩, ⟨_, _, rfl, rfl⟩⟩

/-- The control register, the trigger write, another write, and a gated write. -/
theorem witness_EnvelopeReactsOnlyToItsTwoAddresses :
    (∃ t, exec (decode (packWord 1 0x02 0xF0)) sounding = .next t) ∧
      (∃ t, exec (decode (packWord 1 0x04 0x80)) sounding = .next t) ∧
      (∃ t, exec (decode (packWord 1 0x04 0x7F)) sounding = .next t) ∧
      ∃ t, exec (decode (packWord 1 0x02 0xF0)) State.reset = .next t := ⟨⟨_, rfl⟩, ⟨_, rfl⟩, ⟨_, rfl⟩, ⟨_, rfl⟩⟩

/-- Powered and not. -/
theorem witness_AdvanceAddsTicksWhilePowered : State.reset.faulted = false ∧ onReset.faulted = false ∧
    (∃ t, exec (.adv 65535) onReset = .next t) ∧ ∃ t, exec (.adv 0) State.reset = .next t :=
  ⟨rfl, rfl, ⟨_, rfl⟩, ⟨_, rfl⟩⟩

theorem witness_LongAdvanceIsSplitExactly : onReset.faulted = false ∧ onReset.poweredOn = true := by decide

theorem witness_CatchUpRunsEveryDueTick : sounding.prevFlushTime ≤ sounding.virtualTime ∧
    Config.machine.outputPeriod ≤ Config.machine.outputPeriod := ⟨by decide, Nat.le_refl _⟩

theorem witness_CatchUpComposes : (16383 : Nat) ≤ 16384 := by decide

theorem reset_timeOk : TimeOk State.reset := ⟨rfl, by decide⟩
theorem onReset_timeOk : TimeOk onReset := ⟨rfl, by decide⟩
theorem sounding_timeOk : TimeOk sounding := ⟨rfl, by decide⟩

/-- A fresh unit whose virtual time has reached the output period. -/
def dueState (c : Config) : State := { State.reset with virtualTime := c.outputPeriod }

theorem reset_mirrors (d e f : Nat) : ChannelMirrors [] d e f Channel.reset :=
  ⟨by simp only [Memory.read]; decide, by simp only [Memory.read]; decide, by simp only [Memory.read]; decide,
    by simp only [Memory.read]; decide, by simp only [Memory.read]; decide⟩
theorem reset_channel_ok : Channel.reset.Ok := ⟨by decide, by decide, by decide, by decide, by decide, by decide⟩
theorem reset_sweep_ok : Sweep.reset.Ok := ⟨by decide, by decide⟩
theorem reset_sweep : SweepDirection.add = sweepDirectionField Memory.unlisted ∧ 0#3 = sweepPeriodField Memory.unlisted ∧
    0#3 = sweepShiftField Memory.unlisted ∧ false = powerField Memory.unlisted := by decide
theorem reset_masters : ∀ h : Bool, 0#3 = masterLeftField h Memory.unlisted ∧ 0#3 = masterRightField h Memory.unlisted := by
  decide

/-- The due state with command words waiting. -/
def dueWaiting (c : Config) (ws : List Command) : State := { dueState c with commands := ws }

theorem dueWaiting_inv (c : Config) (ws : List Command) : Inv c (dueWaiting c ws) where
  running := rfl
  shadow := ⟨rfl, rfl⟩
  time := ⟨reset_timeOk.next, Nat.zero_le _⟩
  mirrors :=
    { power := reset_sweep.2.2.2
      left := (reset_masters c.leftIsHigh).1
      right := (reset_masters c.leftIsHigh).2
      sweepPeriod := reset_sweep.2.1
      sweepDirection := reset_sweep.1
      sweepShift := reset_sweep.2.2.1
      channel1 := reset_mirrors _ _ _
      channel2 := reset_mirrors _ _ _ }
  sweep := reset_sweep_ok
  channels k := by cases k <;> exact reset_channel_ok
  ports k := by cases k <;> exact ⟨rfl, ⟨0, rfl, Nat.zero_le _⟩, rfl⟩
  frames := rfl

theorem dueState_inv (c : Config) : Inv c (dueState c) := dueWaiting_inv c []

/-- A due FLUSH completes. -/
theorem dueState_flushes : ∃ t, exec .flush (dueState Config.machine) = .next t := by
  have due : exec .flush (dueState Config.machine) = mix Config.machine (closeFrames Config.machine (dueState Config.machine)) :=
    if_pos (Nat.le_refl (dueState Config.machine).virtualTime)
  rw [due]
  rcases mix_cases Config.machine (closeFrames Config.machine (dueState Config.machine)) with ⟨_, e⟩ | ⟨ne, _⟩
  · exact ⟨_, e⟩
  · exact absurd (closeFrames_counts (dueState_inv Config.machine)) ne

/-- A read, an advance, and a due FLUSH. -/
theorem witness_TimeCountersAfterEveryOperation :
    TimeOk sounding ∧ (∃ t, exec .rdCh1Sweep sounding = .next t) ∧ (∃ t, exec (.adv 1) sounding = .next t) ∧
      Config.machine.outputPeriod ≤ (dueState Config.machine).virtualTime ∧
      ∃ t, exec .flush (dueState Config.machine) = .next t :=
  ⟨sounding_timeOk, ⟨_, rfl⟩, ⟨_, rfl⟩, Nat.le_refl _, dueState_flushes⟩

/-- The sentinel, where the two clauses meet and agree. -/
theorem witness_PeriodOfAFrequency : (2048#12).toNat ≤ 2048 ∧ 2048 ≤ (2048#12).toNat ∧ (2048 - 2048) * 4 = 0 := by decide

theorem witness_EnvelopeVolumeIsClamped :
    (⟨1, .inc, 1, 15, 15⟩ : Envelope).volume = 15 ∧ (⟨1, .dec, 1, 0, 0⟩ : Envelope).volume = 0 := by decide

theorem witness_EnvelopeStepsOncePerPeriod :
    (⟨7, .inc, 7, 14, 14⟩ : Envelope).period ≠ 0 ∧ (⟨7, .inc, 7, 14, 14⟩ : Envelope).delay = 7 ∧
      (⟨0, .dec, 7, 5, 5⟩ : Envelope).period = 0 ∧ (⟨7, .dec, 0, 5, 5⟩ : Envelope).delay = 0 := by decide

/-- Subtract, the largest sum that does not overflow (V32), and the smallest that does (V33). -/
theorem witness_SweepRecalculationIsExact :
    (⟨2047, 0, 1, 1, .sub⟩ : Sweep).shadowFrequency.toNat ≤ 2047 ∧ 1365 + 1365 / 2 ^ 1 < 2048 ∧ 2048 ≤ 1366 + 1366 / 2 ^ 1 := by
  decide

theorem witness_SweepStepsCountDownToARecalculation :
    sounding.sweep.period ≠ 0 ∧ sounding.sweep.shift ≠ 0 ∧ sounding.sweep.delay ≠ 0 ∧ State.reset.sweep.period = 0 := by
  decide

/-- A sweep stopped by an overflow (V33): a read, a sweep write, and the two frequency writes, R99's corner case among
them. -/
theorem witness_StoppedSweepStaysUntilTriggered :
    let s : State :=
      { sounding with
        ch1 := { sounding.ch1 with frequency := 2048, period := 0 }
        sweep := ⟨2048, 0, 7, 7, .add⟩ }
    s.sweep.delay = 0 ∧ (Instr.wrCh1Freqlo 0x12).wellFormed = true ∧ (Instr.wrCh1Freqhi 0x7F).wellFormed = true ∧
      (Instr.wrCh1Sweep 0xFF).wellFormed = true ∧ (∃ t, exec .rdCh1Sweep s = .next t) ∧
      (∃ t, exec (.wrCh1Sweep 0xFF) s = .next t) ∧ (∃ t, exec (.wrCh1Freqlo 0x12) s = .next t) ∧
      ∃ t, exec (.wrCh1Freqhi 0x7F) s = .next t :=
  ⟨rfl, by decide, by decide, by decide, ⟨_, rfl⟩, ⟨_, rfl⟩, ⟨_, rfl⟩, ⟨_, rfl⟩⟩

theorem witness_LengthCounterSaturates : sounding.ch1.length.toNat ≤ 64 := by decide

/-- The three reasons to be off, each alone, with a level and without. -/
theorem witness_OffChannelReturnsToZero :
    ({ sounding.ch1 with enabled := false } : Channel).enabled = false ∧
      ({ sounding.ch1 with lengthEnabled := true } : Channel).lengthEnabled = true ∧ 64 ≤ sounding.ch1.length.toNat ∧
      ({ sounding.ch1 with period := 0, lastAmp := 10 } : Channel).period = 0 ∧
      ({ sounding.ch1 with period := 0, lastAmp := 10 } : Channel).lastAmp ≠ 0 ∧ sounding.ch1.lastAmp = 0 := by decide

theorem witness_GenerationClosedForm : (sounding.ch .one).off = false := by decide

theorem witness_FlushNotDueDoesNothing : State.reset.faulted = false ∧
    State.reset.virtualTime < Config.machine.outputPeriod := ⟨rfl, Nat.succ_pos _⟩

theorem witness_FlushDueClosesRebasesAndDelivers :
    let s : State := dueState Config.machine
    let u := catchUp Config.machine s
    let closed : State := { u with
      acc1 := { u.acc1 with events := u.acc1.events ++ [.endFrame u.prevFlushTime] }
      acc2 := { u.acc2 with events := u.acc2.events ++ [.endFrame u.prevFlushTime] } }
    s.faulted = false ∧ Config.machine.outputPeriod ≤ s.virtualTime ∧
      samplesAvail Config.machine .one closed = samplesAvail Config.machine .two closed :=
  ⟨rfl, Nat.le_refl _, closeFrames_counts (dueState_inv Config.machine)⟩

/-- Five unread samples on each port, chunks of two; and none. -/
theorem witness_MixDeliversTheMixedSamplesInChunks :
    samplesAvail demo .one (closedAt 5 5) = 5 ∧ samplesAvail demo .two (closedAt 5 5) = 5 ∧
      samplesAvail demo .one (closedAt 0 0) = samplesAvail demo .two (closedAt 0 0) := by decide

/-- Port 2 has one sample read that port 1 has not. -/
def unequal : State := { closedAt 10 9 with virtualTime := 16384 }

/-- The configuration whose output period is one sequencer period, `n` samples for an `EndFrame` at tick `n`, except
that an `EndFrame` at tick 16384 makes none available. -/
def demoShort : Config :=
  { demo with
    outputPeriodLessOne := 16383
    frameSampleCount := fun ticks => if ticks.getLastD 0 = 16384 then 0 else ticks.getLastD 0 }

theorem witness_UnequalSampleCountsFault :
    let u := catchUp demoShort unequal
    let closed : State := { u with
      acc1 := { u.acc1 with events := u.acc1.events ++ [.endFrame u.prevFlushTime] }
      acc2 := { u.acc2 with events := u.acc2.events ++ [.endFrame u.prevFlushTime] } }
    unequal.faulted = false ∧ demoShort.outputPeriod ≤ unequal.virtualTime ∧
      samplesAvail demoShort .one closed = 10 ∧ samplesAvail demoShort .two closed = 9 := by decide

theorem witness_OnlyADueFlushFaults : unequal.faulted = false ∧ Instr.adv 0 ≠ .flush := by decide

theorem witness_NoOperationAfterTheFault : ({ State.reset with faulted := true } : State).faulted = true := by decide

/-- A power write waits, and the step runs it. -/
theorem witness_InvariantKeptByEveryStep :
    let s : State := dueWaiting Config.machine [packWord 1 0x16 0x80]
    Inv Config.machine s ∧ decode (packWord 1 0x16 0x80) = .wrPowerStatus 0x80 ∧ ∃ t, step s = .next t :=
  ⟨dueWaiting_inv _ _, by decide, ⟨_, rfl⟩⟩

/-- A due FLUSH waits, the one operation that can raise the fault, and the step runs it. -/
theorem witness_NoFaultUnderTheInvariant :
    let s : State := dueWaiting Config.machine [packWord 3 0 0]
    Inv Config.machine s ∧ decode (packWord 3 0 0) = .flush ∧ Config.machine.outputPeriod ≤ s.virtualTime ∧
      ∃ t, step s = .next t :=
  ⟨dueWaiting_inv _ _, by decide, Nat.le_refl _, dueState_flushes⟩

theorem witness_AbsoluteTimeIsTheTicksAdvanced : TimeOk onReset ∧ ∃ t, exec (.adv 65535) onReset = .next t :=
  ⟨onReset_timeOk, ⟨_, rfl⟩⟩

theorem witness_PhaseCountsTheSequencerTicks : TimeOk sounding ∧
    (∀ k, frameOrigin sounding k + sounding.prevFlushTime = 16384 * 0) ∧ sounding.sequencerPhase = BitVec.ofNat 2 0 ∧
    ∃ t, exec (.wrCh1FreqhiTrig 0x80) sounding = .next t :=
  ⟨sounding_timeOk, fun k => by cases k <;> rfl, rfl, ⟨_, rfl⟩⟩

theorem witness_EnabledIsSetOnlyByATrigger : (Instr.wrCh1FreqhiTrig 0x80).wellFormed = true ∧
    onReset.ch1.enabled = false ∧ onReset.ch2.enabled = false ∧
    after (.wrCh1FreqhiTrig 0x80) onReset (·.ch1.enabled) = some true ∧
    after (.wrCh2FreqhiTrig 0x80) onReset (·.ch2.enabled) = some true := by decide

theorem witness_PoweredOffTimeStandsStill : State.reset.poweredOn = false ∧
    State.reset.virtualTime < State.reset.nextSequencerTick ∧ (∀ v, Instr.wrRouting 0xFF ≠ .wrPowerStatus v) ∧
    Instr.wrRouting 0xFF ≠ .flush ∧ ∃ t, exec (.wrRouting 0xFF) State.reset = .next t :=
  ⟨rfl, by decide, nofun, by decide, ⟨_, rfl⟩⟩

theorem witness_LevelIsTheSumOfTheDeltas :
    deltaSum (State.port { sounding with acc1 := ⟨[.addDelta 0 10, .endFrame 16384], 0⟩ } .one).events = 10 ∧
      ({ sounding.ch1 with lastAmp := 10 } : Channel).lastAmp = 10 ∧
      ∃ t, exec .rdCh1Sweep { sounding with
        acc1 := ⟨[.addDelta 0 10, .endFrame 16384], 0⟩, ch1 := { sounding.ch1 with lastAmp := 10 } } = .next t :=
  ⟨by decide, by decide, ⟨_, rfl⟩⟩

end Sys2Proof.Tests
end

section

/-! O33, the envelope's volume (R13). `envStep_cases` says which steps reach the volume, `stepVolume_toNat` what such a
step does to it. -/

namespace Sys2Proof.Proofs

open Sys2Proof.Machine

/-- A volume step leaves the volume or moves it by exactly 1 in its direction, inside 0 to 15. -/
theorem stepVolume_cases (d : EnvDirection) (vol : BitVec 4) :
    stepVolume d vol = vol ∨
      (d = .inc ∧ (stepVolume d vol).toNat = vol.toNat + 1 ∧ vol.toNat < 15) ∨
      (d = .dec ∧ (stepVolume d vol).toNat + 1 = vol.toNat) := by
  have value := stepVolume_toNat d vol
  cases d with
  | inc =>
    by_cases below : vol.toNat < 15
    · exact .inr (.inl ⟨rfl, by simp only at value; omega, below⟩)
    · exact .inl (if_neg below)
  | dec =>
    by_cases above : 0 < vol.toNat
    · exact .inr (.inr ⟨rfl, by simp only at value; omega⟩)
    · exact .inl (if_neg above)

/-- At 15, a step in direction INC is a no-op on the volume. -/
theorem stepVolume_inc_max : stepVolume .inc 15 = 15 := rfl

/-- At 0, a step in direction DEC is a no-op on the volume. -/
theorem stepVolume_dec_min : stepVolume .dec 0 = 0 := rfl

/-- An envelope step leaves the volume or runs one volume step on it. -/
theorem envStep_volume_cases (e : Envelope) :
    (envStep e).volume = e.volume ∨ (envStep e).volume = stepVolume e.direction e.volume := by
  obtain ⟨-, same⟩ | ⟨-, -, counted⟩ | ⟨-, -, reloaded⟩ := envStep_cases e
  · exact .inl (by rw [same])
  · exact .inl (by rw [counted])
  · exact .inr (by rw [reloaded])

/-- Settles O33: a step that reaches the volume is one clamped volume step, and every other leaves it. -/
theorem envelopeVolumeIsClamped : Obligations.EnvelopeVolumeIsClamped := by
  intro e
  obtain kept | stepped := envStep_volume_cases e
  · exact ⟨.inl kept, fun _ atMax => kept.trans atMax, fun _ atMin => kept.trans atMin⟩
  · rw [stepped]
    refine ⟨stepVolume_cases e.direction e.volume, fun up atMax => ?_, fun down atMin => ?_⟩
    · rw [up, atMax, stepVolume_inc_max]
    · rw [down, atMin, stepVolume_dec_min]

end Sys2Proof.Proofs
end

section

/-! O8, outside the block (R48, R93, R106). A read and a write at an offset above 0x16 are said once; every out-of-range
row and every address outside the block (`busOffset_outside`) comes down to such an offset. -/

namespace Sys2Proof.Proofs

open Sys2Proof.Machine

/-- An address below the block or above it reaches the APU as an offset above 0x16 (R41). -/
theorem busOffset_outside {c : Config} {addr : Nat} (out : addr < c.base ∨ c.base + 0x16 < addr) :
    0x16 < (busOffset c addr).toNat := by
  unfold busOffset
  split_ifs with inWindow
  · rw [BitVec.toNat_ofNat, Nat.mod_eq_of_lt (by omega)]
    omega
  · decide

/-- A read outside the block on a running unit (R93). -/
theorem readOffset_outside (c : Config) {off : Byte} {s : State} (h : s.faulted = false) (out : 0x16 < off.toNat) :
    readOffset c off s = .next ((catchUp c s).recordRead 0x00#8) := by
  rw [readOffset_running c off h, if_neg (Nat.not_le.mpr out)]

/-- Every out-of-range READ row is a read at an offset above 0x16. -/
theorem exec_rdOor_eq_readOffset {l3 : BitVec 3} {l5 : BitVec 5} {l6 : BitVec 6} {l7 : BitVec 7} {i : Instr}
    (row : i ∈ [Instr.rdOor17, .rdOor18 l3, .rdOor20 l5, .rdOor40 l6, .rdOor80 l7]) (s : State) :
    ∃ off : Byte, 0x16 < off.toNat ∧ exec i s = readOffset Config.machine off s := by
  simp only [List.mem_cons, List.not_mem_nil, or_false] at row
  rcases row with rfl | rfl | rfl | rfl | rfl
  · exact ⟨0x17#8, by decide, rfl⟩
  · exact ⟨_, oor18_outside l3, rfl⟩
  · exact ⟨_, oor20_outside l5, rfl⟩
  · exact ⟨_, oor40_outside l6, rfl⟩
  · exact ⟨_, oor80_outside l7, rfl⟩

/-- Every out-of-range WRITE row is a write at an offset above 0x16. -/
theorem exec_wrOor_eq_writeOffset {l3 : BitVec 3} {l5 : BitVec 5} {l6 : BitVec 6} {l7 : BitVec 7} {v : Byte} {i : Instr}
    (row : i ∈ [Instr.wrOor17 v, .wrOor18 l3 v, .wrOor20 l5 v, .wrOor40 l6 v, .wrOor80 l7 v]) (s : State) :
    ∃ off : Byte, 0x16 < off.toNat ∧ exec i s = writeOffset Config.machine off v writeShadowOnly s := by
  simp only [List.mem_cons, List.not_mem_nil, or_false] at row
  rcases row with rfl | rfl | rfl | rfl | rfl
  · exact ⟨0x17#8, by decide, rfl⟩
  · exact ⟨_, oor18_outside l3, rfl⟩
  · exact ⟨_, oor20_outside l5, rfl⟩
  · exact ⟨_, oor40_outside l6, rfl⟩
  · exact ⟨_, oor80_outside l7, rfl⟩

/-- Settles O8: a row's offset and an outside address's offset are above 0x16, where a read records 0x00 after the
catch-up and a write does nothing more than the catch-up. -/
theorem outsideTheBlockReadsZeroAndIgnoresWrites : Obligations.OutsideTheBlockReadsZeroAndIgnoresWrites := by
  intro s running
  refine ⟨fun l3 l5 l6 l7 i row => ?_, fun l3 l5 l6 l7 v i row => ?_, fun addr v outside => ⟨?_, ?_⟩⟩
  · obtain ⟨off, out, isRead⟩ := exec_rdOor_eq_readOffset row s
    exact isRead.trans (readOffset_outside _ running out)
  · obtain ⟨off, out, isWrite⟩ := exec_wrOor_eq_writeOffset row s
    exact isWrite.trans (writeOffset_outside _ v _ running out)
  · exact (exec_read_word _ _ s).trans (readOffset_outside _ running (busOffset_outside outside))
  · exact (exec_write_word _ v s).trans (writeOffset_outside _ v _ running (busOffset_outside outside))

end Sys2Proof.Proofs
end

section

/-! O4, every command word has an effect (R74). A word is its three fields; the operation bits alone say which of the
four operations it is, and each operation on a running unit has its outcomes said once. -/

namespace Sys2Proof.Proofs

open Sys2Proof.Machine

/-- The words from 0x30000 on are those with FLUSH's operation bits (R60). -/
theorem flushWord_iff (op : BitVec 2) (off data : Byte) : 0x30000 ≤ (packWord op off data).toNat ↔ op = 3#2 := by
  rw [packWord_toNat, ← BitVec.toNat_inj, BitVec.toNat_ofNat]
  omega

/-- An ADVANCE word decodes to ADV of its low 16 bits (R73). -/
theorem decode_advanceWord (off data : Byte) :
    decode (packWord 2#2 off data) = .adv ((packWord 2#2 off data).extractLsb' 0 16).toNat := by
  rw [decode, packWord_op]; rfl

/-- A FLUSH word decodes to FLUSH, whatever its ignored bits (R60, R73). -/
theorem decode_flushWord (off data : Byte) : decode (packWord 3#2 off data) = .flush := by
  rw [decode, packWord_op]; rfl

/-- The operation bits that are not FLUSH's. -/
theorem op_cases_of_ne_flush : ∀ op : BitVec 2, op ≠ 3#2 → op = 0#2 ∨ op = 1#2 ∨ op = 2#2 := by decide

/-- A READ, WRITE or ADVANCE word ends in a next state on a running unit (R74). -/
theorem exec_word_next {op : BitVec 2} (off data : Byte) {s : State} (running : s.faulted = false) (notFlush : op ≠ 3#2) :
    ∃ t, exec (decode (packWord op off data)) s = .next t := by
  obtain rfl | rfl | rfl := op_cases_of_ne_flush op notFlush
  · exact ⟨_, (exec_read_word off data s).trans (readOffset_running _ off running)⟩
  · exact ⟨_, (exec_write_word off data s).trans (operate_running running)⟩
  · rw [decode_advanceWord]
    exact ⟨_, operate_running (f := fun s => .next (advanceTime _ s)) running⟩

/-- A FLUSH on a running unit ends in a next state, or in the mismatch with two different counts (R185, R193). -/
theorem flushOp_outcomes (c : Config) {s : State} (running : s.faulted = false) :
    (∃ t, flushOp c s = .next t) ∨
      ∃ n1 n2 u, flushOp c s = .fault (.mixLengthMismatch n1 n2 u) ∧ n1 ≠ n2 := by
  rw [flushOp, operate_running running]
  split_ifs with due
  · obtain ⟨-, delivered⟩ | ⟨unequal, faults⟩ := mix_cases c (closeFrames c s)
    · exact .inl ⟨_, delivered⟩
    · exact .inr ⟨_, _, _, faults, unequal⟩
  · exact .inl ⟨s, rfl⟩

/-- Settles O4: by the operation bits of the word, FLUSH's against the other three. -/
theorem everyCommandWordHasAnEffect : Obligations.EveryCommandWordHasAnEffect := by
  intro w s running
  rw [← packWord_fields w, flushWord_iff, ← Nat.not_le, flushWord_iff]
  refine ⟨exec_word_next _ _ running, fun isFlush => ?_⟩
  rw [isFlush, decode_flushWord]
  exact ⟨rfl, flushOp_outcomes Config.machine running⟩

end Sys2Proof.Proofs
end

section

/-! O13, the power gate on writes (R107). A gated write is its catch-up, and the catch-up stores nothing in the shadow
(`catchUp_keeps`), so that a later read finds the byte stored before. -/

namespace Sys2Proof.Proofs

open Sys2Proof.Machine

/-- A read below the status register returns the byte stored before the read, powered or not (R91, R94). -/
theorem readOffset_stored (c : Config) {off : Byte} {s : State} (running : s.faulted = false)
    (plain : off.toNat < 0x16) :
    readOffset c off s = .next ((catchUp c s).recordRead (Memory.read s.shadow off.toNat)) := by
  rw [readOffset_running c off running, if_pos plain.le, regRead, if_neg plain.ne, (catchUp_keeps c s).shadow]

/-- Settles O13: the gated write is the catch-up alone, and neither it nor the read's own catch-up changes the shadow or
the bytes returned so far. -/
theorem powerGateIgnoresWrites : Obligations.PowerGateIgnoresWrites := by
  intro off v s running powerOff gated
  have kept := catchUp_keeps Config.machine s
  refine ⟨?_, fun o => by rw [kept.shadow], fun u read => ?_⟩
  · exact (exec_write_word off v s).trans (writeOffset_gated _ v _ running gated powerOff)
  · rw [exec_read_word, readOffset_stored _ (kept.faulted.trans running) gated] at read
    cases read
    rw [recordRead_readResults, (catchUp_keeps _ _).readResults, kept.readResults, kept.shadow]

end Sys2Proof.Proofs
end

section

/-! O32, the period of a frequency (R130). `calcPeriod_toNat` is its value up to 2048; from the sentinel 2048 on it is
0. -/

namespace Sys2Proof.Proofs

open Sys2Proof.Machine

/-- From the sentinel on the period is 0; at 2048 itself by the formula (R130). -/
theorem calcPeriod_eq_zero {f : BitVec 12} (h : 2048 ≤ f.toNat) : calcPeriod f = 0 := by
  obtain atSentinel | above := h.eq_or_lt
  · rw [calcPeriod, ← atSentinel]; rfl
  · exact if_neg (Nat.not_le.mpr above)

theorem calcPeriod_mod_four (f : BitVec 12) : (calcPeriod f).toNat % 4 = 0 := by
  obtain below | above := le_total f.toNat 2048
  · rw [calcPeriod_toNat below, Nat.mul_mod_left]
  · rw [calcPeriod_eq_zero above]; rfl

/-- Settles O32: the formula up to 2048, the sentinel, the range and the multiple of 4, each by its own lemma. -/
theorem periodOfAFrequency : Obligations.PeriodOfAFrequency :=
  fun f => ⟨calcPeriod_toNat, calcPeriod_eq_zero, calcPeriod_le f, calcPeriod_mod_four f⟩

end Sys2Proof.Proofs
end

section

/-! O38, the length counter (R138). One step is said in the form of the statement; the iteration is an induction over
the number of steps. -/

namespace Sys2Proof.Proofs

open Sys2Proof.Machine

theorem lengthStep_disabled {ch : Channel} (disabled : ¬ ch.lengthEnabled = true) : lengthStep ch = ch :=
  if_neg (by simp [disabled])

/-- With length enabled a step takes a length of at most 64 one up, to 64 at most, and changes no other field (R138). -/
theorem lengthStep_enabled {ch : Channel} (enabled : ch.lengthEnabled = true) {m : Nat} (inRange : m ≤ 64) :
    lengthStep { ch with length := BitVec.ofNat 7 m } = { ch with length := BitVec.ofNat 7 (min 64 (m + 1)) } := by
  have reads : (BitVec.ofNat 7 m).toNat = m := Nat.mod_eq_of_lt (by omega)
  have value := lengthStep_length (ch := { ch with length := BitVec.ofNat 7 m }) (reads.le.trans inRange)
  obtain ⟨n, stepped⟩ := lengthStep_shape { ch with length := BitVec.ofNat 7 m }
  rw [stepped, if_pos enabled, reads] at value
  rw [stepped, ← value, BitVec.ofNat_toNat, BitVec.setWidth_eq]

/-- With length enabled `n` steps add `n`, saturating at 64: each further step starts from a length in range. -/
theorem lengthStep_iterate_enabled {ch : Channel} (enabled : ch.lengthEnabled = true) (inRange : ch.length.toNat ≤ 64)
    (n : Nat) : lengthStep^[n] ch = { ch with length := BitVec.ofNat 7 (min 64 (ch.length.toNat + n)) } := by
  induction n with
  | zero => rw [Nat.add_zero, Nat.min_eq_right inRange, BitVec.ofNat_toNat, BitVec.setWidth_eq]; rfl
  | succ n ih =>
    have saturates : min 64 (min 64 (ch.length.toNat + n) + 1) = min 64 (ch.length.toNat + (n + 1)) := by omega
    rw [Function.iterate_succ_apply', ih, lengthStep_enabled enabled (Nat.min_le_left ..), saturates]

/-- Settles O38: by induction on the steps where length is enabled; elsewhere the channel is a fixed point. -/
theorem lengthCounterSaturates : Obligations.LengthCounterSaturates := by
  intro n ch inRange
  split_ifs with enabled
  · exact lengthStep_iterate_enabled enabled inRange n
  · exact Function.iterate_fixed (lengthStep_disabled enabled) n

end Sys2Proof.Proofs
end

section

/-! O29, the frame sequencer (R170, R171). The order inside one tick is the model's own composition, its phases told
apart; the loop is the tick iterated, by induction on its fuel; and an operation that begins with the catch-up finds
nothing to do on a state already caught up. -/

namespace Sys2Proof.Proofs

open Sys2Proof.Machine

/-! ### One tick -/

/-- The phases of the sequencer, 0 to 3 (R171). -/
theorem sequencerPhase_cases : ∀ p : BitVec 2, p = 0 ∨ p = 1 ∨ p = 2 ∨ p = 3 := by decide

/-- The envelopes step on phase 0, nothing on phase 2, the sweep on the other two (R171). -/
theorem phaseSteps_eq {s : State} {p : BitVec 2} (phase : s.sequencerPhase = p) :
    phaseSteps s = if p = 0 then envSteps s else if p = 2 then s else sweepStep s := by
  obtain rfl | rfl | rfl | rfl := sequencerPhase_cases p <;> simp [phaseSteps, phase]

/-- A tick up to its length steps: channel 1 generates, then channel 2, then both lengths step (R170). -/
def afterLengths (c : Config) (s : State) : State :=
  lengthSteps
    (generate c .two s.prevFlushTime s.nextSequencerTick (generate c .one s.prevFlushTime s.nextSequencerTick s))

theorem afterLengths_sequencerPhase (c : Config) (s : State) :
    (afterLengths c s).sequencerPhase = s.sequencerPhase := by
  simp [afterLengths, generate_time]

theorem afterLengths_nextSequencerTick (c : Config) (s : State) :
    (afterLengths c s).nextSequencerTick = s.nextSequencerTick := by
  simp [afterLengths, generate_time]

/-- One tick in terms of the state before it, whose phase selects the units and whose next tick moves the counters
(R170, R171). -/
theorem sequencerTick_eq (c : Config) (s : State) :
    sequencerTick c s =
      { (if s.sequencerPhase = 0 then envSteps (afterLengths c s)
          else if s.sequencerPhase = 2 then afterLengths c s
          else sweepStep (afterLengths c s)) with
        sequencerPhase := s.sequencerPhase + 1
        prevFlushTime := s.nextSequencerTick
        nextSequencerTick := s.nextSequencerTick + seqPeriod } := by
  obtain ⟨-, next, phase⟩ := phaseSteps_time (afterLengths c s)
  change advanceSequencer (phaseSteps (afterLengths c s)) = _
  rw [advanceSequencer, next, phase, afterLengths_nextSequencerTick, afterLengths_sequencerPhase,
    phaseSteps_eq (afterLengths_sequencerPhase c s)]

/-! ### The loop -/

/-- How many sequencer ticks are due (R170). -/
def dueTicks (s : State) : Nat :=
  if s.nextSequencerTick ≤ s.virtualTime then (s.virtualTime - s.nextSequencerTick) / seqPeriod + 1 else 0

theorem dueTicks_of_not_due {s : State} (notDue : ¬ s.nextSequencerTick ≤ s.virtualTime) : dueTicks s = 0 :=
  if_neg notDue

/-- A due tick leaves one tick less due. -/
theorem dueTicks_of_due (c : Config) {s : State} (due : s.nextSequencerTick ≤ s.virtualTime) :
    dueTicks s = dueTicks (sequencerTick c s) + 1 := by
  obtain ⟨-, next, -⟩ := sequencerTick_time c s
  rw [dueTicks, if_pos due, dueTicks, next, (sequencerTick_keeps c s).virtualTime]
  simp only [seqPeriod]
  split_ifs <;> omega

/-- The model's fuel covers every due tick. -/
theorem dueTicks_le_fuel (s : State) : dueTicks s ≤ s.virtualTime / seqPeriod + 1 := by
  simp only [dueTicks, seqPeriod]
  split_ifs <;> omega

/-- With enough fuel the loop is the tick repeated for every due tick. -/
theorem catchUpLoop_eq_iterate (c : Config) {fuel : Nat} :
    ∀ {s : State}, dueTicks s ≤ fuel → catchUpLoop c fuel s = (sequencerTick c)^[dueTicks s] s := by
  induction fuel with
  | zero => intro s enough; rw [Nat.le_zero.mp enough]; rfl
  | succ fuel ih =>
    intro s enough
    rw [catchUpLoop]
    split_ifs with due
    · have oneLess := dueTicks_of_due c due
      rw [oneLess, Function.iterate_succ_apply, ih (by omega)]
    · rw [dueTicks_of_not_due due]; rfl

theorem catchUp_eq_iterate (c : Config) (s : State) : catchUp c s = (sequencerTick c)^[dueTicks s] s :=
  catchUpLoop_eq_iterate c (dueTicks_le_fuel s)

/-- The catch-up ends at a tick that was due, or where it began (R170). -/
theorem catchUp_prevFlushTime_le (c : Config) {s : State} (le : s.prevFlushTime ≤ s.virtualTime) :
    (catchUp c s).prevFlushTime ≤ s.virtualTime := by
  rw [← (catchUp_keeps c s).virtualTime]
  refine catchUp_induction c (P := fun u => u.prevFlushTime ≤ u.virtualTime) le fun u _ due => ?_
  obtain ⟨prev, -, -⟩ := sequencerTick_time c u
  rwa [prev, (sequencerTick_keeps c u).virtualTime]

/-! ### The operations that begin with the catch-up -/

/-- A second catch-up finds no tick due (R175). -/
theorem catchUp_catchUp (c : Config) (s : State) : catchUp c (catchUp c s) = catchUp c s :=
  catchUp_of_not_due c (catchUp_exit c s)

/-- The guard after the fault does not see the catch-up. -/
theorem operate_catchUp (c : Config) {f : State → Host.Outcome State Fault Refusal} {s : State}
    (same : f s = f (catchUp c s)) : operate f s = operate f (catchUp c s) := by
  rw [operate, operate, (catchUp_keeps c s).faulted, same]

theorem readOffset_catchUp (c : Config) (off : Byte) (s : State) :
    readOffset c off s = readOffset c off (catchUp c s) :=
  operate_catchUp c (by rw [catchUp_catchUp])

theorem writeOffset_catchUp (c : Config) (off v : Byte) (effect : State → State) (s : State) :
    writeOffset c off v effect s = writeOffset c off v effect (catchUp c s) :=
  operate_catchUp c (by rw [catchUp_catchUp])

/-- A FLUSH that is due closes the frames of the caught-up state (R185). -/
theorem flushOp_catchUp {c : Config} {s : State} (due : c.outputPeriod ≤ s.virtualTime) :
    flushOp c s = flushOp c (catchUp c s) :=
  operate_catchUp c (by
    rw [(catchUp_keeps c s).virtualTime, if_pos due, if_pos due, closeFrames, closeFrames, catchUp_catchUp])

/-- Settles O29: the tick by its phases, the loop as the tick iterated, its exit, and the operations that begin with
it. -/
theorem catchUpRunsEveryDueTick : Obligations.CatchUpRunsEveryDueTick := by
  intro c s
  refine ⟨sequencerTick_eq c s, catchUp_eq_iterate c s, ?_, catchUp_prevFlushTime_le c, fun off data => ⟨?_, ?_⟩,
    flushOp_catchUp⟩
  · rw [← (catchUp_keeps c s).virtualTime]
    exact catchUp_exit c s
  · rw [exec_read_word, exec_read_word]
    exact readOffset_catchUp Config.machine off s
  · rw [exec_write_word, exec_write_word]
    exact writeOffset_catchUp Config.machine off data _ s

end Sys2Proof.Proofs
end

section

/-! O27, ADVANCE (R172). The operation is `advanceTime` on a running unit, and `advanceTime` adds up. -/

namespace Sys2Proof.Proofs

open Sys2Proof.Machine

/-- An ADVANCE on a running unit (R172). -/
theorem exec_adv_running (n : Nat) {s : State} (running : s.faulted = false) :
    exec (.adv n) s = .next (advanceTime n s) :=
  operate_running (f := fun s => .next (advanceTime n s)) running

theorem advanceTime_faulted (n : Nat) (s : State) : (advanceTime n s).faulted = s.faulted := by
  unfold advanceTime; split_ifs <;> rfl

/-- Two advances are one of the sum, powered or not: an advance leaves the power as it is. -/
theorem advanceTime_advanceTime (n m : Nat) (s : State) : advanceTime m (advanceTime n s) = advanceTime (n + m) s := by
  by_cases power : s.poweredOn = true
  · simp [advanceTime, power, Nat.add_assoc]
  · simp [advanceTime, power]

/-- Settles O27: one advance on a running unit, which stays running, and two of them in a row. -/
theorem advanceAddsTicksWhilePowered : Obligations.AdvanceAddsTicksWhilePowered := by
  intro n s running
  refine ⟨exec_adv_running n running, fun m t first => ?_⟩
  rw [exec_adv_running n running] at first
  cases first
  rw [exec_adv_running m ((advanceTime_faulted n s).trans running), exec_adv_running (n + m) running,
    advanceTime_advanceTime]

end Sys2Proof.Proofs
end

section

/-! O1, O2, O3, O5 and O6, the command word (R60, R73). A word is its three fields, and the decoder looks at the operation
bits first; so each direction of the round trip is a statement about `decodeRead` and `decodeWrite` by offset. The opcode
table is unambiguous because any two of its rows differ at a bit that both masks keep. -/

namespace Sys2Proof.Proofs

open Sys2Proof.Machine

/-! ### The decoder on the fields of a word -/

theorem decode_readWord (off data : Byte) : decode (packWord 0#2 off data) = decodeRead off := by
  rw [decode, packWord_op, packWord_off]; rfl

theorem decode_writeWord (off v : Byte) : decode (packWord 1#2 off v) = decodeWrite off v := by
  rw [decode, packWord_op, packWord_off, packWord_data]; rfl

/-- An ADVANCE of at most 65535 ticks reads back its ticks (R60, R73). -/
theorem decode_packAdvance {n : Nat} (fits : n ≤ 65535) : decode (packAdvance n) = .adv n := by
  rw [decode, packAdvance_op, packAdvance_ticks]
  exact congrArg Instr.adv (Nat.mod_eq_of_lt (by omega))

theorem offset_eq_ofNat {off : Byte} {n : Nat} (h : off.toNat = n) : off = BitVec.ofNat 8 n := by
  rw [← h, BitVec.ofNat_toNat, BitVec.setWidth_eq]

/-- A WRITE outside the block belongs to the row of its offset's upper bits (R61, R73). -/
theorem decodeWrite_outside {off : Byte} (v : Byte) (out : 0x17 < off.toNat) :
    decodeWrite off v =
      if off.toNat < 0x20 then .wrOor18 (off.setWidth 3) v
      else if off.toNat < 0x40 then .wrOor20 (off.setWidth 5) v
      else if off.toNat < 0x80 then .wrOor40 (off.setWidth 6) v
      else .wrOor80 (off.setWidth 7) v := by
  unfold decodeWrite
  split <;> try omega
  rfl

/-! ### Decoding what the encoder writes -/

theorem decodeRead_oor18 : ∀ lo : BitVec 3, decodeRead (3#5 ++ lo) = .rdOor18 lo := by decide
theorem decodeRead_oor20 : ∀ lo : BitVec 5, decodeRead (1#3 ++ lo) = .rdOor20 lo := by decide
theorem decodeRead_oor40 : ∀ lo : BitVec 6, decodeRead (1#2 ++ lo) = .rdOor40 lo := by decide
theorem decodeRead_oor80 : ∀ lo : BitVec 7, decodeRead (1#1 ++ lo) = .rdOor80 lo := by decide

theorem oor18_offset : ∀ lo : BitVec 3, 0x17 < (3#5 ++ lo).toNat ∧ (3#5 ++ lo).toNat < 0x20 ∧
    (3#5 ++ lo).setWidth 3 = lo := by decide
theorem oor20_offset : ∀ lo : BitVec 5, 0x1F < (1#3 ++ lo).toNat ∧ (1#3 ++ lo).toNat < 0x40 ∧
    (1#3 ++ lo).setWidth 5 = lo := by decide
theorem oor40_offset : ∀ lo : BitVec 6, 0x3F < (1#2 ++ lo).toNat ∧ (1#2 ++ lo).toNat < 0x80 ∧
    (1#2 ++ lo).setWidth 6 = lo := by decide
theorem oor80_offset : ∀ lo : BitVec 7, 0x7F < (1#1 ++ lo).toNat ∧ (1#1 ++ lo).setWidth 7 = lo := by decide

theorem decodeWrite_oor18 (lo : BitVec 3) (v : Byte) : decodeWrite (3#5 ++ lo) v = .wrOor18 lo v := by
  obtain ⟨above, below, bits⟩ := oor18_offset lo
  rw [decodeWrite_outside v above, if_pos below, bits]

theorem decodeWrite_oor20 (lo : BitVec 5) (v : Byte) : decodeWrite (1#3 ++ lo) v = .wrOor20 lo v := by
  obtain ⟨above, below, bits⟩ := oor20_offset lo
  rw [decodeWrite_outside v (by omega), if_neg (by omega), if_pos below, bits]

theorem decodeWrite_oor40 (lo : BitVec 6) (v : Byte) : decodeWrite (1#2 ++ lo) v = .wrOor40 lo v := by
  obtain ⟨above, below, bits⟩ := oor40_offset lo
  rw [decodeWrite_outside v (by omega), if_neg (by omega), if_neg (by omega), if_pos below, bits]

theorem decodeWrite_oor80 (lo : BitVec 7) (v : Byte) : decodeWrite (1#1 ++ lo) v = .wrOor80 lo v := by
  obtain ⟨above, bits⟩ := oor80_offset lo
  rw [decodeWrite_outside v (by omega), if_neg (by omega), if_neg (by omega), if_neg (by omega), bits]

/-- The decoder reads back what the encoder wrote: the rows of one fixed offset by computation, an out-of-range row by
its free bits, a frequency-high row by bit 7 of its byte (R73). -/
theorem decode_encode {i : Instr} (wf : i.wellFormed = true) : decode (encode i) = i := by
  cases i
  case adv n => exact decode_packAdvance (of_decide_eq_true wf)
  case flush => exact decode_flushWord 0 0
  case rdOor18 lo => exact (decode_readWord _ _).trans (decodeRead_oor18 lo)
  case rdOor20 lo => exact (decode_readWord _ _).trans (decodeRead_oor20 lo)
  case rdOor40 lo => exact (decode_readWord _ _).trans (decodeRead_oor40 lo)
  case rdOor80 lo => exact (decode_readWord _ _).trans (decodeRead_oor80 lo)
  case wrOor18 lo v => exact (decode_writeWord _ v).trans (decodeWrite_oor18 lo v)
  case wrOor20 lo v => exact (decode_writeWord _ v).trans (decodeWrite_oor20 lo v)
  case wrOor40 lo v => exact (decode_writeWord _ v).trans (decodeWrite_oor40 lo v)
  case wrOor80 lo v => exact (decode_writeWord _ v).trans (decodeWrite_oor80 lo v)
  case wrCh1Freqhi v | wrCh2Freqhi v =>
    exact (decode_writeWord _ v).trans (if_neg (by simpa [Instr.wellFormed] using wf))
  case wrCh1FreqhiTrig v | wrCh2FreqhiTrig v => exact (decode_writeWord _ v).trans (if_pos wf)
  case wrCh1Sweep v | wrCh1Dutylen v | wrCh1Env v | wrCh1Freqlo v | wrUnused05 v | wrCh2Dutylen v | wrCh2Env v |
      wrCh2Freqlo v | wrUnused0A v | wrUnused0B v | wrUnused0C v | wrUnused0D v | wrUnused0E v | wrUnused0F v |
      wrUnused10 v | wrUnused11 v | wrUnused12 v | wrUnused13 v | wrMasterVol v | wrRouting v | wrPowerStatus v |
      wrOor17 v => exact decode_writeWord _ v
  all_goals exact decode_readWord _ 0

/-- A word reads back from its three stored bytes (log 13). -/
theorem wordOfBytes_bytesOfWord (w : Command) (rest : List Byte) :
    wordOfBytes (bytesOfWord w ++ rest) = .ok (w, rest) := by
  have value : (w.extractLsb' 0 8).toNat + 256 * (w.extractLsb' 8 8).toNat +
      65536 * ((w.extractLsb' 16 2).setWidth 8).toNat = w.toNat := by
    rw [BitVec.toNat_setWidth, BitVec.extractLsb'_toNat, BitVec.extractLsb'_toNat, BitVec.extractLsb'_toNat,
      Nat.shiftRight_eq_div_pow, Nat.shiftRight_eq_div_pow, Nat.shiftRight_eq_div_pow]
    omega
  simp only [bytesOfWord, List.cons_append, List.nil_append, wordOfBytes, value]
  rw [if_pos w.isLt, BitVec.ofNat_toNat, BitVec.setWidth_eq]

theorem decodeBytes_bytesOfWord (w : Command) (rest : List Byte) :
    decodeBytes (bytesOfWord w ++ rest) = .ok (decode w, rest) := by
  rw [decodeBytes, wordOfBytes_bytesOfWord]

/-- Settles O1: the word by `decode_encode`, its bytes by way of the word they hold. -/
theorem decodeInvertsEncode : Obligations.DecodeInvertsEncode := by
  intro i wf
  refine ⟨decode_encode wf, fun rest => ?_⟩
  rw [decodeBytes_bytesOfWord, decode_encode wf]

/-! ### Encoding what the decoder reads -/

theorem decodeRead_wellFormed : ∀ off : Byte, (decodeRead off).wellFormed = true := by decide
theorem encode_decodeRead : ∀ off : Byte, encode (decodeRead off) = packWord 0#2 off 0#8 := by decide

/-- What a WRITE word decodes to is well-formed and is encoded as that word: by the offset, and for the two
frequency-high registers by bit 7 of the byte (R73). -/
theorem decodeWrite_spec (off v : Byte) :
    (decodeWrite off v).wellFormed = true ∧ encode (decodeWrite off v) = packWord 1#2 off v := by
  by_cases out : 0x17 < off.toNat
  · obtain ⟨bits18, bits20, bits40, bits80⟩ := eight_split off out
    rw [decodeWrite_outside v out]
    split_ifs with h1 h2 h3
    · exact ⟨rfl, congrArg (packWord 1#2 · v) (bits18 h1)⟩
    · exact ⟨rfl, congrArg (packWord 1#2 · v) (bits20 h1 h2)⟩
    · exact ⟨rfl, congrArg (packWord 1#2 · v) (bits40 h2 h3)⟩
    · exact ⟨rfl, congrArg (packWord 1#2 · v) (bits80 h3)⟩
  · unfold decodeWrite
    split
    case h_25 => simp only [imp_false] at *; omega
    all_goals rename_i offset; obtain rfl := offset_eq_ofNat offset
    case h_5 | h_10 =>
      split_ifs with trigger
      · exact ⟨trigger, rfl⟩
      · exact ⟨by simpa [Instr.wellFormed] using trigger, rfl⟩
    all_goals exact ⟨rfl, rfl⟩

/-- An ADVANCE word decodes to a well-formed ADV and is encoded as itself. -/
theorem encode_decode_advanceWord (off data : Byte) :
    (decode (packWord 2#2 off data)).wellFormed = true ∧
      encode (decode (packWord 2#2 off data)) = packWord 2#2 off data := by
  rw [decode_advanceWord]
  refine ⟨decide_eq_true (by omega), BitVec.eq_of_toNat_eq ?_⟩
  rw [encode, packAdvance_toNat, BitVec.extractLsb'_toNat, Nat.shiftRight_eq_div_pow, packWord_toNat]
  simp only [BitVec.toNat_ofNat]
  omega

/-- The four values of the operation bits. -/
theorem op_cases : ∀ op : BitVec 2, op = 0#2 ∨ op = 1#2 ∨ op = 2#2 ∨ op = 3#2 := by decide

theorem decode_wellFormed (w : Command) : (decode w).wellFormed = true := by
  rw [← packWord_fields w]
  obtain op | op | op | op := op_cases (w.extractLsb' 16 2) <;> rw [op]
  · rw [decode_readWord]; exact decodeRead_wellFormed _
  · rw [decode_writeWord]; exact (decodeWrite_spec _ _).1
  · exact (encode_decode_advanceWord _ _).1
  · rw [decode_flushWord]; rfl

/-- Encoding what a word decodes to, by its operation bits. -/
theorem encode_decode_packWord (op : BitVec 2) (off data : Byte) :
    encode (decode (packWord op off data)) =
      if op = 0#2 then packWord 0#2 off 0#8 else if op = 3#2 then packWord 3#2 0#8 0#8 else packWord op off data := by
  obtain rfl | rfl | rfl | rfl := op_cases op
  · rw [decode_readWord]; exact encode_decodeRead off
  · rw [decode_writeWord]; exact (decodeWrite_spec off data).2
  · exact (encode_decode_advanceWord off data).2
  · rw [decode_flushWord]; rfl

/-- Settles O2: by the operation bits, which are the word divided by 65536. -/
theorem encodeInvertsDecodeUpToIgnoredBits : Obligations.EncodeInvertsDecodeUpToIgnoredBits := by
  intro w
  refine ⟨decode_wellFormed w, ?_⟩
  rw [← packWord_fields w]
  generalize w.extractLsb' 16 2 = op, w.extractLsb' 8 8 = off, w.extractLsb' 0 8 = data
  have cleared : packWord 0#2 off 0#8 = BitVec.ofNat 18 ((packWord 0#2 off data).toNat / 256 * 256) := by
    apply BitVec.eq_of_toNat_eq
    rw [packWord_toNat, BitVec.toNat_ofNat, packWord_toNat]
    simp only [BitVec.toNat_ofNat]
    omega
  have opBits : (packWord op off data).toNat / 65536 = op.toNat := by rw [packWord_toNat]; omega
  rw [encode_decode_packWord, opBits]
  obtain rfl | rfl | rfl | rfl := op_cases op
  · exact cleared
  · rfl
  · rfl
  · rfl

/-- Settles O5, each word by computation. -/
theorem writtenWordsDecode : Obligations.WrittenWordsDecode := by
  unfold Obligations.WrittenWordsDecode
  decide

/-- Settles O6: the step by whether a word waits, and the word of a well-formed instruction by `decode_encode`. -/
theorem stepRunsTheNextCommand : Obligations.StepRunsTheNextCommand :=
  ⟨fun _ _ _ => step_cons, fun s i rest wf waiting => by rw [step_cons waiting, decode_encode wf], fun _ => step_nil⟩

/-! ### The opcode table -/

/-- One instruction of every row of the opcode table, in the order of `Instr`'s constructors. -/
def rowExamples : List Instr :=
  [.adv 0, .flush, .rdCh1Sweep, .rdCh1Dutylen, .rdCh1Env, .rdCh1Freqlo, .rdCh1Freqhi, .rdUnused05, .rdCh2Dutylen,
    .rdCh2Env, .rdCh2Freqlo, .rdCh2Freqhi, .rdUnused0A, .rdUnused0B, .rdUnused0C, .rdUnused0D, .rdUnused0E,
    .rdUnused0F, .rdUnused10, .rdUnused11, .rdUnused12, .rdUnused13, .rdMasterVol, .rdRouting, .rdPowerStatus,
    .rdOor17, .rdOor18 0, .rdOor20 0, .rdOor40 0, .rdOor80 0, .wrCh1Sweep 0, .wrCh1Dutylen 0, .wrCh1Env 0,
    .wrCh1Freqlo 0, .wrCh1Freqhi 0, .wrCh1FreqhiTrig 0, .wrUnused05 0, .wrCh2Dutylen 0, .wrCh2Env 0, .wrCh2Freqlo 0,
    .wrCh2Freqhi 0, .wrCh2FreqhiTrig 0, .wrUnused0A 0, .wrUnused0B 0, .wrUnused0C 0, .wrUnused0D 0, .wrUnused0E 0,
    .wrUnused0F 0, .wrUnused10 0, .wrUnused11 0, .wrUnused12 0, .wrUnused13 0, .wrMasterVol 0, .wrRouting 0,
    .wrPowerStatus 0, .wrOor17 0, .wrOor18 0 0, .wrOor20 0 0, .wrOor40 0 0, .wrOor80 0 0]

/-- A row does not depend on the operands: it is the row at the constructor's place in the table. -/
theorem rowExamples_getElem? (i : Instr) : (rowExamples.map Instr.row)[i.ctorIdx]? = some i.row := by
  cases i <;> rfl

theorem row_mem_table (i : Instr) : i.row ∈ rowExamples.map Instr.row :=
  List.mem_of_getElem? (rowExamples_getElem? i)

/-- Two rows clash when they differ at a bit that both masks keep. -/
def RowsClash (r q : OpcodeRow) : Prop := r.matchBits &&& q.maskBits ≠ q.matchBits &&& r.maskBits

theorem rowsClash_symm : Std.Symm RowsClash := ⟨fun _ _ => Ne.symm⟩

/-- Rows that clash share no word. -/
theorem not_clash_of_accepts {r q : OpcodeRow} {w : Command} (hr : r.accepts w = true) (hq : q.accepts w = true) :
    ¬ RowsClash r q := by
  rw [OpcodeRow.accepts, beq_iff_eq] at hr hq
  rw [RowsClash, not_not, ← hr, ← hq, BitVec.and_assoc, BitVec.and_assoc, BitVec.and_comm r.maskBits]

/-- The opcode table is unambiguous: any two of its rows clash (R73). -/
theorem rows_pairwise_clash : (rowExamples.map Instr.row).Pairwise RowsClash := by
  unfold RowsClash
  decide +kernel

theorem row_eq_of_accepts {i j : Instr} {w : Command} (hi : i.row.accepts w = true) (hj : j.row.accepts w = true) :
    i.row = j.row := by
  have := rowsClash_symm
  by_contra different
  exact not_clash_of_accepts hi hj (rows_pairwise_clash.forall (row_mem_table i) (row_mem_table j) different)

open Laws in
/-- The word of a well-formed instruction belongs to the instruction's row, by the family of Laws/PerInstr.lean. -/
theorem row_accepts_encode {i : Instr} (wf : i.wellFormed = true) : i.row.accepts (encode i) = true := by
  cases i
  case adv n => exact EncodesItsRow.adv n wf
  case rdOor18 lo => exact EncodesItsRow.rdOor18 lo wf
  case rdOor20 lo => exact EncodesItsRow.rdOor20 lo wf
  case rdOor40 lo => exact EncodesItsRow.rdOor40 lo wf
  case rdOor80 lo => exact EncodesItsRow.rdOor80 lo wf
  case wrOor18 lo v => exact EncodesItsRow.wrOor18 lo v wf
  case wrOor20 lo v => exact EncodesItsRow.wrOor20 lo v wf
  case wrOor40 lo v => exact EncodesItsRow.wrOor40 lo v wf
  case wrOor80 lo v => exact EncodesItsRow.wrOor80 lo v wf
  case wrCh1Freqhi v => exact EncodesItsRow.wrCh1Freqhi v wf
  case wrCh1FreqhiTrig v => exact EncodesItsRow.wrCh1FreqhiTrig v wf
  case wrCh2Freqhi v => exact EncodesItsRow.wrCh2Freqhi v wf
  case wrCh2FreqhiTrig v => exact EncodesItsRow.wrCh2FreqhiTrig v wf
  case wrCh1Sweep v | wrCh1Dutylen v | wrCh1Env v | wrCh1Freqlo v | wrUnused05 v | wrCh2Dutylen v | wrCh2Env v |
      wrCh2Freqlo v | wrUnused0A v | wrUnused0B v | wrUnused0C v | wrUnused0D v | wrUnused0E v | wrUnused0F v |
      wrUnused10 v | wrUnused11 v | wrUnused12 v | wrUnused13 v | wrMasterVol v | wrRouting v | wrPowerStatus v |
      wrOor17 v => exact EncodesItsRow.of_offset 1#2 _ v _
  all_goals decide

/-- The masks of the READ rows drop the bits R60 calls ignored. -/
theorem readRow_mask : ∀ off : Byte, (decodeRead off).row.maskBits.extractLsb' 0 8 = 0#8 := by decide

/-- A READ row accepts a word whatever its ignored bits. -/
theorem readRow_accepts (off data : Byte) : (decodeRead off).row.accepts (packWord 0#2 off data) = true := by
  have accepted := row_accepts_encode (decodeRead_wellFormed off)
  rw [encode_decodeRead, OpcodeRow.accepts, ← packWord_fields (decodeRead off).row.maskBits, readRow_mask,
    packWord_and] at accepted
  rw [OpcodeRow.accepts, ← packWord_fields (decodeRead off).row.maskBits, readRow_mask, packWord_and,
    BitVec.and_zero]
  exact accepted

/-- Every word belongs to the row of the instruction it decodes to (R73). -/
theorem row_accepts_decode (op : BitVec 2) (off data : Byte) :
    (decode (packWord op off data)).row.accepts (packWord op off data) = true := by
  have accepted := row_accepts_encode (decode_wellFormed (packWord op off data))
  rw [encode_decode_packWord] at accepted
  obtain rfl | rfl | rfl | rfl := op_cases op
  · rw [decode_readWord]; exact readRow_accepts off data
  · exact accepted
  · exact accepted
  · rw [decode_flushWord]
    exact Laws.EncodesItsRow.of_offset_bits 3#2 off 0#8 0#8 data "FLUSH" BitVec.and_zero

/-- Settles O3: the word is accepted by its own row, and two rows that accept one word are the same. -/
theorem everyWordBelongsToOneRow : Obligations.EveryWordBelongsToOneRow := by
  intro w
  have own := row_accepts_decode (w.extractLsb' 16 2) (w.extractLsb' 8 8) (w.extractLsb' 0 8)
  rw [packWord_fields] at own
  exact ⟨own, fun j accepted => row_eq_of_accepts accepted own⟩

end Sys2Proof.Proofs
end

section

/-! O49, the invariant through a step. What the decoding of a write can do is said once for all twelve registers: what it
never touches (`DecodingKeeps`), the ranges it keeps (`registerEffect_ok`) and the decoded fields it loads
(`DecodesTo`). With the catch-up's own law `catchUp_inv` each of the six cases of `OperationDone` is then short. -/

namespace Sys2Proof.Proofs

open Sys2Proof.Machine

/-! ### What the decoding of a write never touches -/

/-- Everything but the channels' registers, the sweep, the master volumes and the power (R95 step 5). -/
structure DecodingKeeps (s t : State) : Prop where
  shadow : t.shadow = s.shadow
  virtualTime : t.virtualTime = s.virtualTime
  prevFlushTime : t.prevFlushTime = s.prevFlushTime
  nextSequencerTick : t.nextSequencerTick = s.nextSequencerTick
  sequencerPhase : t.sequencerPhase = s.sequencerPhase
  faulted : t.faulted = s.faulted
  port1 : t.acc1 = s.acc1
  port2 : t.acc2 = s.acc2
  level1 : t.ch1.lastAmp = s.ch1.lastAmp
  level2 : t.ch2.lastAmp = s.ch2.lastAmp
  readResults : t.readResults = s.readResults

theorem DecodingKeeps.port {s t : State} (h : DecodingKeeps s t) (k : Chan) : t.port k = s.port k := by
  cases k
  · exact h.port1
  · exact h.port2

theorem DecodingKeeps.level {s t : State} (h : DecodingKeeps s t) (k : Chan) :
    (t.ch k).lastAmp = (s.ch k).lastAmp := by
  cases k
  · exact h.level1
  · exact h.level2

/-- Everything a frequency-high write, trigger or not, can change: the sweep's delay and working copy, and its own
channel's fields but duty, phase, level and envelope settings (R100, R139). -/
theorem writeFreqHi_shape (k : Chan) (v : Byte) (s : State) : ∃ sd sf en len f p d ed vol,
    writeFreqHi k v s =
      { s with sweep := { s.sweep with delay := sd, shadowFrequency := sf } }.setCh k
        { s.ch k with
          enabled := en, length := len, lengthEnabled := lengthEnableField v, frequency := f, period := p, delay := d
          env := { (s.ch k).env with delay := ed, volume := vol } } := by
  unfold writeFreqHi
  split_ifs with triggered
  · cases k with
    | one =>
      obtain ⟨sd, sf, ch, shape, rfl | ⟨g, rfl⟩⟩ := trigger_one_shape (loadFreqHi .one v s)
      · exact ⟨sd, sf, _, _, _, _, _, _, _, shape⟩
      · exact ⟨sd, sf, _, _, _, _, _, _, _, shape⟩
    | two => exact ⟨s.sweep.delay, s.sweep.shadowFrequency, _, _, _, _, _, _, _, trigger_two (loadFreqHi .two v s)⟩
  · cases k <;>
      exact ⟨s.sweep.delay, s.sweep.shadowFrequency, _, _, _, _, _, _, _, rfl⟩

theorem registerEffect_keeps {off v : Byte} {effect : State → State} (e : RegisterEffect off v effect) (s : State) :
    DecodingKeeps s (effect s) := by
  cases e
  case freqHi1 =>
    obtain ⟨_, _, _, _, _, _, _, _, _, shape⟩ := writeFreqHi_shape .one v s
    rw [shape]; constructor <;> rfl
  case freqHi2 =>
    obtain ⟨_, _, _, _, _, _, _, _, _, shape⟩ := writeFreqHi_shape .two v s
    rw [shape]; constructor <;> rfl
  all_goals constructor <;> rfl

theorem registerEffect_inBlock {off v : Byte} {effect : State → State} (e : RegisterEffect off v effect) :
    off.toNat ≤ 0x16 := by
  cases e
  case shadowOnly only => unfold shadowOnlyOffset at only; omega
  all_goals decide

/-! ### The ranges -/

theorem channels_setCh {s : State} (h : ∀ k, (s.ch k).Ok) (k : Chan) {ch : Channel} (ok : ch.Ok) (j : Chan) :
    ((s.setCh k ch).ch j).Ok := by
  by_cases same : j = k
  · rw [same, ch_setCh]; exact ok
  · rw [ch_setCh_ne s j k ch same]; exact h j

theorem lengthLoad_le (v : Byte) : (lengthLoad v).toNat ≤ 63 := by
  rw [lengthLoad_eq, BitVec.toNat_ofNat]; omega

theorem frequencyWithLow_le (f : BitVec 12) (v : Byte) : (frequencyWithLow f v).toNat ≤ 2047 := by
  rw [frequencyWithLow_eq, BitVec.toNat_ofNat]; omega

theorem frequencyWithHigh_le (f : BitVec 12) (v : Byte) : (frequencyWithHigh f v).toNat ≤ 2047 := by
  rw [frequencyWithHigh_eq, BitVec.toNat_ofNat]; omega

theorem restart_ok {ch : Channel} (h : ch.Ok) : ch.restart.Ok :=
  { h with
    length := by
      have := h.length
      change (if ch.length.toNat = 64 then 0 else ch.length).toNat ≤ 64
      split_ifs <;> simp [this]
    delay := Nat.zero_le _ }

/-- The sweep's part of a trigger, from a frequency below the sentinel (R139, R136). -/
theorem sweepTrigger_ok {k : Chan} {s : State} (hs : s.sweep.Ok) (hc : ∀ j, (s.ch j).Ok)
    (below : (s.ch k).frequency.toNat ≤ 2047) :
    (sweepTrigger k s).sweep.Ok ∧ ∀ j, ((sweepTrigger k s).ch j).Ok := by
  cases k with
  | two => exact ⟨hs, hc⟩
  | one =>
    simp only [sweepTrigger, hasSweep, if_true]
    split_ifs
    · obtain ⟨sweepOk, chOk⟩ := sweepRecalc_ok (sw := { s.sweep with shadowFrequency := s.ch1.frequency }) below (hc .one)
      exact ⟨sweepOk, channels_setCh (s := s) hc .one chOk⟩
    · exact ⟨⟨Nat.le_succ_of_le below, fun _ => below⟩, hc⟩

theorem trigger_ok {k : Chan} {s : State} (hs : s.sweep.Ok) (hc : ∀ j, (s.ch j).Ok)
    (below : (s.ch k).frequency.toNat ≤ 2047) :
    (trigger k s).sweep.Ok ∧ ∀ j, ((trigger k s).ch j).Ok := by
  have restarted := channels_setCh hc k (restart_ok (hc k))
  obtain ⟨sweepOk, chOk⟩ := sweepTrigger_ok (k := k) (by rwa [setCh_sweep]) restarted (by rwa [ch_setCh])
  exact ⟨by rwa [trigger, envTriggerState, setCh_sweep], channels_setCh chOk k { chOk k with }⟩

theorem registerEffect_ok {off v : Byte} {effect : State → State} (e : RegisterEffect off v effect) {s : State}
    (hs : s.sweep.Ok) (hc : ∀ k, (s.ch k).Ok) : (effect s).sweep.Ok ∧ ∀ k, ((effect s).ch k).Ok := by
  have dutyLen (k : Chan) : (writeDutyLen k v s).sweep.Ok ∧ ∀ j, ((writeDutyLen k v s).ch j).Ok :=
    ⟨by rwa [writeDutyLen, setCh_sweep],
      channels_setCh hc k { hc k with length := (lengthLoad_le v).trans (by decide) }⟩
  have env (k : Chan) : (writeEnv k v s).sweep.Ok ∧ ∀ j, ((writeEnv k v s).ch j).Ok :=
    ⟨by rwa [writeEnv, setCh_sweep], channels_setCh hc k { hc k with }⟩
  have freqLo (k : Chan) : (writeFreqLo k v s).sweep.Ok ∧ ∀ j, ((writeFreqLo k v s).ch j).Ok :=
    ⟨by rwa [writeFreqLo, setCh_sweep],
      channels_setCh hc k (withFrequency_ok (hc k) (Nat.le_succ_of_le (frequencyWithLow_le _ v)))⟩
  have freqHi (k : Chan) : (writeFreqHi k v s).sweep.Ok ∧ ∀ j, ((writeFreqHi k v s).ch j).Ok := by
    have loadedSweep : (loadFreqHi k v s).sweep.Ok := by rwa [loadFreqHi, setCh_sweep]
    have loaded : ∀ j, ((loadFreqHi k v s).ch j).Ok := channels_setCh hc k
      { withFrequency_ok (hc k) (Nat.le_succ_of_le (frequencyWithHigh_le _ v)) with }
    unfold writeFreqHi
    split_ifs
    · exact trigger_ok loadedSweep loaded (by rw [loadFreqHi, ch_setCh]; exact frequencyWithHigh_le _ v)
    · exact ⟨loadedSweep, loaded⟩
  cases e
  case sweep => exact ⟨⟨hs.range, hs.running⟩, hc⟩
  case dutyLen1 => exact dutyLen .one
  case dutyLen2 => exact dutyLen .two
  case env1 => exact env .one
  case env2 => exact env .two
  case freqLo1 => exact freqLo .one
  case freqLo2 => exact freqLo .two
  case freqHi1 => exact freqHi .one
  case freqHi2 => exact freqHi .two
  all_goals exact ⟨hs, hc⟩

/-! ### The decoded fields -/

/-- The fields of a channel decoded from offsets `d`, `e` and `f`, as a write of `v` at `off` leaves them. -/
structure ChannelDecodesTo (d e f : Nat) (off v : Byte) (a b : Channel) : Prop where
  duty : b.duty = if d = off.toNat then dutyField v else a.duty
  envPeriod : b.env.period = if e = off.toNat then envPeriodField v else a.env.period
  envDirection : b.env.direction = if e = off.toNat then envDirectionField v else a.env.direction
  initialVolume : b.env.initialVolume = if e = off.toNat then initialVolumeField v else a.env.initialVolume
  lengthEnabled : b.lengthEnabled = if f = off.toNat then lengthEnableField v else a.lengthEnabled

/-- The decoded fields (those `Mirrors` speaks of), as a write of `v` at `off` leaves them. -/
structure DecodesTo (off v : Byte) (s t : State) : Prop where
  power : t.poweredOn = if 0x16 = off.toNat then powerField v else s.poweredOn
  left : t.masterVolumeLeft =
    if 0x14 = off.toNat then masterLeftField Config.machine.leftIsHigh v else s.masterVolumeLeft
  right : t.masterVolumeRight =
    if 0x14 = off.toNat then masterRightField Config.machine.leftIsHigh v else s.masterVolumeRight
  sweepPeriod : t.sweep.period = if 0x00 = off.toNat then sweepPeriodField v else s.sweep.period
  sweepDirection : t.sweep.direction = if 0x00 = off.toNat then sweepDirectionField v else s.sweep.direction
  sweepShift : t.sweep.shift = if 0x00 = off.toNat then sweepShiftField v else s.sweep.shift
  channel1 : ChannelDecodesTo 0x01 0x02 0x04 off v s.ch1 t.ch1
  channel2 : ChannelDecodesTo 0x06 0x07 0x09 off v s.ch2 t.ch2

theorem ChannelDecodesTo.of_other {d e f : Nat} {off v : Byte} (hd : d ≠ off.toNat) (he : e ≠ off.toNat)
    (hf : f ≠ off.toNat) (ch : Channel) : ChannelDecodesTo d e f off v ch ch :=
  ⟨(if_neg hd).symm, (if_neg he).symm, (if_neg he).symm, (if_neg he).symm, (if_neg hf).symm⟩

theorem registerEffect_decodesTo {off v : Byte} {effect : State → State} (e : RegisterEffect off v effect) (s : State) :
    DecodesTo off v s (effect s) := by
  cases e
  case shadowOnly only =>
    unfold shadowOnlyOffset at only
    have other (o : Nat) (ho : o < 5 ∨ 5 < o ∧ o < 0xA ∨ o = 0x14 ∨ o = 0x16) : o ≠ off.toNat := by omega
    exact
      { power := (if_neg (other 0x16 (by decide))).symm
        left := (if_neg (other 0x14 (by decide))).symm
        right := (if_neg (other 0x14 (by decide))).symm
        sweepPeriod := (if_neg (other 0x00 (by decide))).symm
        sweepDirection := (if_neg (other 0x00 (by decide))).symm
        sweepShift := (if_neg (other 0x00 (by decide))).symm
        channel1 := .of_other (other 0x01 (by decide)) (other 0x02 (by decide)) (other 0x04 (by decide)) _
        channel2 := .of_other (other 0x06 (by decide)) (other 0x07 (by decide)) (other 0x09 (by decide)) _ }
  case freqHi1 =>
    obtain ⟨_, _, _, _, _, _, _, _, _, shape⟩ := writeFreqHi_shape .one v s
    rw [shape]; exact ⟨rfl, rfl, rfl, rfl, rfl, rfl, ⟨rfl, rfl, rfl, rfl, rfl⟩, ⟨rfl, rfl, rfl, rfl, rfl⟩⟩
  case freqHi2 =>
    obtain ⟨_, _, _, _, _, _, _, _, _, shape⟩ := writeFreqHi_shape .two v s
    rw [shape]; exact ⟨rfl, rfl, rfl, rfl, rfl, rfl, ⟨rfl, rfl, rfl, rfl, rfl⟩, ⟨rfl, rfl, rfl, rfl, rfl⟩⟩
  all_goals exact ⟨rfl, rfl, rfl, rfl, rfl, rfl, ⟨rfl, rfl, rfl, rfl, rfl⟩, ⟨rfl, rfl, rfl, rfl, rfl⟩⟩

theorem channelMirrors_of_decodesTo {m : Memory} (canonical : Memory.wf m = true) {d e f : Nat} {off v : Byte}
    {a b : Channel} (h : ChannelMirrors m d e f a) (loads : ChannelDecodesTo d e f off v a b) :
    ChannelMirrors (Memory.write m off.toNat v) d e f b where
  duty := by rw [loads.duty, h.duty, read_write canonical, apply_ite dutyField]
  envPeriod := by rw [loads.envPeriod, h.envPeriod, read_write canonical, apply_ite envPeriodField]
  envDirection := by rw [loads.envDirection, h.envDirection, read_write canonical, apply_ite envDirectionField]
  initialVolume := by rw [loads.initialVolume, h.initialVolume, read_write canonical, apply_ite initialVolumeField]
  lengthEnabled := by rw [loads.lengthEnabled, h.lengthEnabled, read_write canonical, apply_ite lengthEnableField]

/-- A write loads exactly the fields decoded from the byte it stores (R95 steps 4 and 5). -/
theorem mirrors_of_decodesTo {s t : State} {off v : Byte} (h : Mirrors Config.machine s)
    (canonical : Memory.wf s.shadow = true) (shadow : t.shadow = Memory.write s.shadow off.toNat v)
    (loads : DecodesTo off v s t) : Mirrors Config.machine t where
  power := by rw [loads.power, h.power, shadow, read_write canonical, apply_ite powerField]
  left := by rw [loads.left, h.left, shadow, read_write canonical, apply_ite (masterLeftField _)]
  right := by rw [loads.right, h.right, shadow, read_write canonical, apply_ite (masterRightField _)]
  sweepPeriod := by rw [loads.sweepPeriod, h.sweepPeriod, shadow, read_write canonical, apply_ite sweepPeriodField]
  sweepDirection := by
    rw [loads.sweepDirection, h.sweepDirection, shadow, read_write canonical, apply_ite sweepDirectionField]
  sweepShift := by rw [loads.sweepShift, h.sweepShift, shadow, read_write canonical, apply_ite sweepShiftField]
  channel1 := by rw [shadow]; exact channelMirrors_of_decodesTo canonical h.channel1 loads.channel1
  channel2 := by rw [shadow]; exact channelMirrors_of_decodesTo canonical h.channel2 loads.channel2

/-! ### The invariant through each operation -/

/-- The read log, the queue and a later time are no part of the invariant. -/
theorem inv_later {c : Config} {s : State} (h : Inv c s) {vt : Nat} (later : s.virtualTime ≤ vt) (reads : List Byte)
    (queue : List Command) : Inv c { s with virtualTime := vt, readResults := reads, commands := queue } where
  running := h.running
  shadow := h.shadow
  time := ⟨h.time.next, h.time.prev.trans later⟩
  mirrors := { h.mirrors with }
  sweep := h.sweep
  channels := h.channels
  ports := fun k => { h.ports k with }
  frames := h.frames

theorem inv_advanceTime {c : Config} {s : State} (h : Inv c s) (n : Nat) : Inv c (advanceTime n s) := by
  unfold advanceTime
  split_ifs
  · exact inv_later h (Nat.le_add_right _ n) s.readResults s.commands
  · exact h

/-- An accepted write keeps the invariant. -/
theorem inv_write {s : State} (h : Inv Config.machine s) {off v : Byte} {effect : State → State}
    (e : RegisterEffect off v effect) : Inv Config.machine (effect (s.storeShadow off.toNat v)) := by
  have kept := registerEffect_keeps e (s.storeShadow off.toNat v)
  obtain ⟨sweepOk, channelsOk⟩ := registerEffect_ok e (s := s.storeShadow off.toNat v) h.sweep h.channels
  refine
    { running := kept.faulted.trans h.running
      shadow := ?_
      time := ⟨by rw [kept.nextSequencerTick, kept.prevFlushTime]; exact h.time.next,
        by rw [kept.prevFlushTime, kept.virtualTime]; exact h.time.prev⟩
      mirrors := ?_
      sweep := sweepOk
      channels := channelsOk
      ports := fun k => ?_
      frames := by rw [kept.port1, kept.port2]; exact h.frames }
  · rw [kept.shadow]
    exact ⟨write_wf h.shadow.canonical _ v, write_inBlock h.shadow.inBlock (registerEffect_inBlock e) v⟩
  · have loads := registerEffect_decodesTo e (s.storeShadow off.toNat v)
    exact mirrors_of_decodesTo h.mirrors h.shadow.canonical kept.shadow { loads with }
  · obtain ⟨level, ordered, drained⟩ := h.ports k
    refine ⟨?_, ?_, ?_⟩
    · rw [kept.port k, kept.level k]; exact level
    · rw [kept.port k, kept.prevFlushTime]; exact ordered
    · rw [kept.port k]; exact drained

section Flushed

variable {c : Config} {s t : State} (mixed : mix c (closeFrames c s) = .next t)
include mixed

/-- After a due FLUSH a port's history is the caught-up one and the `EndFrame` (R191). -/
theorem flushed_events (k : Chan) :
    (t.port k).events = ((catchUp c s).port k).events ++ [.endFrame (catchUp c s).prevFlushTime] := by
  obtain ⟨⟨_, _, _, shape⟩, -⟩ := mix_next mixed
  rw [shape]; cases k <;> rfl

theorem flushed_ch (k : Chan) : t.ch k = (catchUp c s).ch k := by
  obtain ⟨⟨_, _, _, shape⟩, -⟩ := mix_next mixed
  rw [shape]; cases k <;> rfl

/-- A due FLUSH leaves the counters as the rebase does (R192). -/
theorem flushed_time : t.virtualTime = s.virtualTime - (catchUp c s).prevFlushTime ∧ t.prevFlushTime = 0 ∧
    t.nextSequencerTick = (catchUp c s).nextSequencerTick - (catchUp c s).prevFlushTime ∧
    t.sequencerPhase = (catchUp c s).sequencerPhase := by
  obtain ⟨⟨_, _, _, shape⟩, -⟩ := mix_next mixed
  rw [shape, ← (catchUp_keeps c s).virtualTime]
  exact ⟨rfl, rfl, rfl, rfl⟩

/-- A due FLUSH reads every sample its history has made available (R196). -/
theorem flushed_drained {k : Chan}
    (drained : ((catchUp c s).port k).samplesRead = (resample c ((catchUp c s).port k).events).length) :
    (t.port k).samplesRead = (resample c (t.port k).events).length := by
  obtain ⟨-, read⟩ := mix_next mixed
  have events := flushed_events mixed k
  have settled : (resample c ((catchUp c s).port k).events).length ≤ (resample c (t.port k).events).length := by
    rw [events]; exact (resample_prefix c _ _).length_le
  have before : ((closeFrames c s).port k).samplesRead = ((catchUp c s).port k).samplesRead := by cases k <;> rfl
  have history : ((closeFrames c s).port k).events = (t.port k).events := by rw [events]; cases k <;> rfl
  rw [read, samplesAvail_eq, before, history, drained]
  omega

/-- The rebase keeps the counters in order around its new origin (R192, D28). -/
theorem flushed_timeOk (h : TimeOk s) : TimeOk t := by
  obtain ⟨-, prev, next, -⟩ := flushed_time mixed
  have before := (catchUp_timeOk c h).next
  exact ⟨by rw [next, prev]; omega, by rw [prev]; exact Nat.zero_le _⟩

theorem flushed_portOk (h : Inv c (catchUp c s)) (k : Chan) : PortOk c t k := by
  obtain ⟨level, ⟨tick, ordered, within⟩, drained⟩ := h.ports k
  refine ⟨?_, ⟨0, ?_, Nat.zero_le _⟩, flushed_drained mixed drained⟩
  · rw [flushed_events mixed, flushed_ch mixed, deltaSum_append, level]; exact Int.add_zero _
  · rw [flushed_events mixed, openTick_append, ordered]; exact if_pos within

/-- A due FLUSH keeps the invariant: it closes both frames at one tick and touches no register. -/
theorem inv_flush (h : Inv c s) : Inv c t := by
  have caught := catchUp_inv h
  have events1 := flushed_events mixed .one
  have events2 := flushed_events mixed .two
  rw [port_one, port_one] at events1
  rw [port_two, port_two] at events2
  obtain ⟨⟨_, _, _, shape⟩, -⟩ := mix_next mixed
  exact
    { running := by rw [shape]; exact caught.running
      shadow := by rw [shape]; exact caught.shadow
      time := flushed_timeOk mixed h.time
      mirrors := by rw [shape]; exact { caught.mirrors with }
      sweep := by rw [shape]; exact caught.sweep
      channels := fun k => by rw [flushed_ch mixed]; exact caught.channels k
      ports := flushed_portOk mixed caught
      frames := by rw [events1, events2, endTicks_append, endTicks_append, caught.frames] }

end Flushed

/-- Every operation keeps the invariant. -/
theorem exec_inv {i : Instr} {s t : State} (h : Inv Config.machine s) (done : exec i s = .next t) :
    Inv Config.machine t := by
  have caught := catchUp_inv h
  obtain ⟨-, done⟩ := exec_next_cases done
  cases done with
  | read b e => rw [e]; exact inv_later caught le_rfl _ _
  | ignored e => rw [e]; exact caught
  | wrote off v effect decodes _ e => rw [e]; exact inv_write caught decodes
  | advanced n _ e => rw [e]; exact inv_advanceTime h n
  | notDue _ _ e => rw [e]; exact h
  | flushed _ _ mixed => exact inv_flush mixed h

/-- Settles O49: an idle step changes nothing, and taking a command off the queue is no part of the invariant. -/
theorem invariantKeptByEveryStep : Obligations.InvariantKeptByEveryStep := by
  intro s t h stepped
  cases waiting : s.commands with
  | nil => rw [step_nil waiting] at stepped; cases stepped; exact h
  | cons w rest =>
    rw [step_cons waiting] at stepped
    exact exec_inv (inv_later h le_rfl s.readResults rest) stepped

end Sys2Proof.Proofs
end

section

/-! O45, O46, O50: which operations end in a next state. -/

namespace Sys2Proof.Proofs

open Sys2Proof.Machine

/-- A FLUSH on a running unit ends in a next state exactly when it is not due or the closed ports hold equally many
samples (R185, R193). -/
theorem flushOp_next_iff (c : Config) {s : State} (running : s.faulted = false) :
    (∃ t, flushOp c s = .next t) ↔ s.virtualTime < c.outputPeriod ∨
      samplesAvail c .one (closeFrames c s) = samplesAvail c .two (closeFrames c s) := by
  rw [flushOp, operate_running running]
  split_ifs with due
  · obtain ⟨equal, delivered⟩ | ⟨unequal, faults⟩ := mix_cases c (closeFrames c s)
    · exact iff_of_true ⟨_, delivered⟩ (.inr equal)
    · refine iff_of_false ?_ (not_or_intro (Nat.not_lt.mpr due) unequal)
      rw [faults]
      exact fun ⟨_, impossible⟩ => nomatch impossible
  · exact iff_of_true ⟨s, rfl⟩ (.inl (Nat.not_le.mp due))

/-- Every instruction is one of the four operations (R6), and a write at the power register's offset is WR.POWER_STATUS
alone. -/
theorem exec_operation_cases (i : Instr) :
    (∃ n, i = .adv n) ∨ i = .flush ∨ (∃ off, ∀ s, exec i s = readOffset Config.machine off s) ∨
      ∃ off v effect, (off.toNat = 0x16 → i = .wrPowerStatus v) ∧
        ∀ s, exec i s = writeOffset Config.machine off v effect s := by
  cases i
  case adv n => exact .inl ⟨n, rfl⟩
  case flush => exact .inr (.inl rfl)
  case wrOor18 lo v => exact .inr (.inr (.inr ⟨_, v, _, fun h => absurd h (oor18_outside lo).ne', fun _ => rfl⟩))
  case wrOor20 lo v => exact .inr (.inr (.inr ⟨_, v, _, fun h => absurd h (oor20_outside lo).ne', fun _ => rfl⟩))
  case wrOor40 lo v => exact .inr (.inr (.inr ⟨_, v, _, fun h => absurd h (oor40_outside lo).ne', fun _ => rfl⟩))
  case wrOor80 lo v => exact .inr (.inr (.inr ⟨_, v, _, fun h => absurd h (oor80_outside lo).ne', fun _ => rfl⟩))
  case wrPowerStatus v => exact .inr (.inr (.inr ⟨0x16#8, v, _, fun _ => rfl, fun _ => rfl⟩))
  case wrCh1Sweep v | wrCh1Dutylen v | wrCh1Env v | wrCh1Freqlo v | wrCh1Freqhi v | wrCh1FreqhiTrig v | wrUnused05 v |
      wrCh2Dutylen v | wrCh2Env v | wrCh2Freqlo v | wrCh2Freqhi v | wrCh2FreqhiTrig v | wrUnused0A v | wrUnused0B v |
      wrUnused0C v | wrUnused0D v | wrUnused0E v | wrUnused0F v | wrUnused10 v | wrUnused11 v | wrUnused12 v |
      wrUnused13 v | wrMasterVol v | wrRouting v | wrOor17 v =>
    exact .inr (.inr (.inr ⟨BitVec.ofNat 8 _, v, _, fun h => absurd h (by decide), fun _ => rfl⟩))
  all_goals exact .inr (.inr (.inl ⟨_, fun _ => rfl⟩))

/-- Every operation but FLUSH ends in a next state on a running unit (R210). -/
theorem exec_next_of_ne_flush {i : Instr} {s : State} (running : s.faulted = false) (notFlush : i ≠ .flush) :
    ∃ t, exec i s = .next t := by
  obtain ⟨n, rfl⟩ | isFlush | ⟨off, reads⟩ | ⟨off, v, effect, -, writes⟩ := exec_operation_cases i
  · exact ⟨_, exec_adv_running n running⟩
  · exact absurd isFlush notFlush
  · exact ⟨_, (reads s).trans (readOffset_running _ off running)⟩
  · exact ⟨_, (writes s).trans (operate_running running)⟩

/-- Settles O45: FLUSH by `flushOp_next_iff`, every other operation without a condition. -/
theorem onlyADueFlushFaults : Obligations.OnlyADueFlushFaults :=
  ⟨fun _ _ running => exec_next_of_ne_flush running, fun c _ running => (flushOp_next_iff c running).symm⟩

/-- Settles O46: every operation stands behind the guard of `operate`. -/
theorem noOperationAfterTheFault : Obligations.NoOperationAfterTheFault := by
  intro i s faulted
  obtain ⟨n, rfl⟩ | rfl | ⟨off, reads⟩ | ⟨off, v, effect, -, writes⟩ := exec_operation_cases i
  · change execAdv n s = _; exact operate_faulted faulted
  · change flushOp Config.machine s = _; exact operate_faulted faulted
  · exact (reads s).trans (operate_faulted faulted)
  · exact (writes s).trans (operate_faulted faulted)

theorem exec_next_of_inv {s : State} (h : Inv Config.machine s) (i : Instr) : ∃ t, exec i s = .next t := by
  by_cases isFlush : i = .flush
  · rw [isFlush]; exact (flushOp_next_iff _ h.running).mpr (.inr (closeFrames_counts h))
  · exact exec_next_of_ne_flush h.running isFlush

/-- Settles O50: under the invariant both ports hold equally many samples, so that a due FLUSH does not fault. -/
theorem noFaultUnderTheInvariant : Obligations.NoFaultUnderTheInvariant := by
  intro s h
  cases waiting : s.commands with
  | nil => exact ⟨s, step_nil waiting⟩
  | cons w rest =>
    rw [safeStep, step_cons waiting]
    exact exec_next_of_inv (inv_later h le_rfl s.readResults rest) _

end Sys2Proof.Proofs
end

section

/-! The sweep step (R137) said once, by its three cases: a stopped or inactive sweep, a delay that counts, and the delay's
last step. -/

namespace Sys2Proof.Proofs

open Sys2Proof.Machine

theorem sweepActive_one_iff (sw : Sweep) : sweepActive .one sw = true ↔ sw.period ≠ 0 ∧ sw.shift ≠ 0 := by
  simp [sweepActive, hasSweep]

theorem sweepStep_of_stopped {s : State} (stopped : s.sweep.period = 0 ∨ s.sweep.shift = 0 ∨ s.sweep.delay = 0) :
    sweepStep s = s := by
  unfold sweepStep
  split_ifs with inactive delay
  · rfl
  · rfl
  · obtain ⟨period, shift⟩ := (sweepActive_one_iff s.sweep).mp (by simpa using inactive)
    exact absurd stopped (not_or_intro period (not_or_intro shift delay))

/-- A delay above 1 is only counted down. -/
theorem sweepStep_of_counting {s : State} (period : s.sweep.period ≠ 0) (shift : s.sweep.shift ≠ 0)
    (above : 2 ≤ s.sweep.delay.toNat) :
    sweepStep s = { s with sweep := { s.sweep with delay := s.sweep.delay - 1 } } := by
  have active := (sweepActive_one_iff s.sweep).mpr ⟨period, shift⟩
  rw [sweepStep, if_neg (by simp [active]), if_neg (by bv_omega)]
  exact if_neg (by bv_omega)

/-- The step that takes the delay from 1 to 0 recalculates. -/
theorem sweepStep_of_last {s : State} (period : s.sweep.period ≠ 0) (shift : s.sweep.shift ≠ 0)
    (last : s.sweep.delay = 1) :
    sweepStep s = { s with
      sweep := (sweepRecalc { s.sweep with delay := 0 } s.ch1).1
      ch1 := (sweepRecalc { s.sweep with delay := 0 } s.ch1).2 } := by
  have active := (sweepActive_one_iff s.sweep).mpr ⟨period, shift⟩
  rw [sweepStep, if_neg (by simp [active]), last, if_neg (by decide)]
  exact if_pos rfl

theorem sweepStep_cases (s : State) :
    ((s.sweep.period = 0 ∨ s.sweep.shift = 0 ∨ s.sweep.delay = 0) ∧ sweepStep s = s) ∨
      (s.sweep.period ≠ 0 ∧ s.sweep.shift ≠ 0 ∧ 2 ≤ s.sweep.delay.toNat ∧
        sweepStep s = { s with sweep := { s.sweep with delay := s.sweep.delay - 1 } }) ∨
      (s.sweep.period ≠ 0 ∧ s.sweep.shift ≠ 0 ∧ s.sweep.delay = 1 ∧ sweepStep s = { s with
        sweep := (sweepRecalc { s.sweep with delay := 0 } s.ch1).1
        ch1 := (sweepRecalc { s.sweep with delay := 0 } s.ch1).2 }) := by
  by_cases stopped : s.sweep.period = 0 ∨ s.sweep.shift = 0 ∨ s.sweep.delay = 0
  · exact .inl ⟨stopped, sweepStep_of_stopped stopped⟩
  · simp only [not_or] at stopped
    obtain ⟨period, shift, delay⟩ := stopped
    by_cases above : 2 ≤ s.sweep.delay.toNat
    · exact .inr (.inl ⟨period, shift, above, sweepStep_of_counting period shift above⟩)
    · have last : s.sweep.delay = 1 := by bv_omega
      exact .inr (.inr ⟨period, shift, last, sweepStep_of_last period shift last⟩)

end Sys2Proof.Proofs
end

section

/-! O30, the catch-up composes (R175). A sequencer tick never looks at the virtual time, so that the ticks due by `a` are
the first of those due by `b`. -/

namespace Sys2Proof.Proofs

open Sys2Proof.Machine

/-- The state with the virtual time `vt` (R170: the argument of `catch_up`). -/
def atTime (vt : Nat) (s : State) : State := { s with virtualTime := vt }

theorem atTime_ch (vt : Nat) (s : State) (k : Chan) : (atTime vt s).ch k = s.ch k := by cases k <;> rfl

theorem generateOff_atTime (k : Chan) (a vt : Nat) (s : State) :
    generateOff k a (atTime vt s) = atTime vt (generateOff k a s) := by
  simp only [generateOff, atTime_ch]
  split_ifs
  · rfl
  · cases k <;> rfl

theorem generate_atTime (c : Config) (k : Chan) (a b vt : Nat) (s : State) :
    generate c k a b (atTime vt s) = atTime vt (generate c k a b s) := by
  simp only [generate, atTime_ch]
  split_ifs
  · exact generateOff_atTime k a vt s
  · cases k <;> rfl

theorem sweepStep_atTime (vt : Nat) (s : State) : sweepStep (atTime vt s) = atTime vt (sweepStep s) := by
  obtain ⟨stopped, e⟩ | ⟨period, shift, above, e⟩ | ⟨period, shift, last, e⟩ := sweepStep_cases s
  · rw [e, sweepStep_of_stopped (s := atTime vt s) stopped]
  · rw [e, sweepStep_of_counting (s := atTime vt s) period shift above]; rfl
  · rw [e, sweepStep_of_last (s := atTime vt s) period shift last]; rfl

theorem phaseSteps_atTime (vt : Nat) (s : State) : phaseSteps (atTime vt s) = atTime vt (phaseSteps s) := by
  rw [phaseSteps_eq (s := atTime vt s) (p := s.sequencerPhase) rfl, phaseSteps_eq (s := s) rfl]
  split_ifs
  · rfl
  · rfl
  · exact sweepStep_atTime vt s

theorem sequencerTick_atTime (c : Config) (vt : Nat) (s : State) :
    sequencerTick c (atTime vt s) = atTime vt (sequencerTick c s) := by
  rw [sequencerTick, generate_atTime, generate_atTime]
  change advanceSequencer (phaseSteps (atTime vt (afterLengths c s))) = atTime vt (advanceSequencer _)
  rw [phaseSteps_atTime]; rfl

/-- The catch-up begins with the first due tick (R170). -/
theorem catchUp_of_due (c : Config) {s : State} (due : s.nextSequencerTick ≤ s.virtualTime) :
    catchUp c s = catchUp c (sequencerTick c s) := by
  rw [catchUp_eq_iterate, dueTicks_of_due c due, Function.iterate_succ_apply, ← catchUp_eq_iterate]

/-- A catch-up to an earlier time is the beginning of a catch-up to a later one. -/
theorem catchUp_atTime_catchUp (c : Config) {s : State} {b : Nat} (later : s.virtualTime ≤ b) :
    catchUp c (atTime b (catchUp c s)) = catchUp c (atTime b s) := by
  have passes := catchUp_induction c (s := s)
    (P := fun u => u.virtualTime ≤ b ∧ catchUp c (atTime b u) = catchUp c (atTime b s)) ⟨later, rfl⟩
    fun u ⟨within, same⟩ due => by
      refine ⟨by rwa [(sequencerTick_keeps c u).virtualTime], ?_⟩
      rw [← sequencerTick_atTime, ← catchUp_of_due c (s := atTime b u) (due.trans within), same]
  exact passes.2

/-- Settles O30: no tick is due after a catch-up, and a catch-up to `a` begins the one to `b`. -/
theorem catchUpComposes : Obligations.CatchUpComposes :=
  fun c s => ⟨catchUp_catchUp c s, fun a _ le => catchUp_atTime_catchUp c (s := atTime a s) le⟩

end Sys2Proof.Proofs
end

section

/-! O31, O51 and O52, the time counters and the sequencer phase (R20, R171, R198). The catch-up moves the last boundary
by a number of periods which is also what it adds to the phase; every other operation leaves both, a FLUSH up to moving
the boundary into the ports' origin. -/

namespace Sys2Proof.Proofs

open Sys2Proof.Machine

/-- The catch-up generates a whole number of periods and counts them in the phase (R170, R171). -/
theorem catchUp_periods (c : Config) {s : State} (h : TimeOk s) :
    ∃ n, (catchUp c s).prevFlushTime = s.prevFlushTime + 16384 * n ∧
      (catchUp c s).sequencerPhase = s.sequencerPhase + BitVec.ofNat 2 n := by
  refine (catchUp_induction c (P := fun u => TimeOk u ∧ ∃ n, u.prevFlushTime = s.prevFlushTime + 16384 * n ∧
    u.sequencerPhase = s.sequencerPhase + BitVec.ofNat 2 n) ⟨h, 0, rfl, (BitVec.add_zero _).symm⟩ ?_).2
  intro u ⟨ok, n, boundary, phase⟩ due
  obtain ⟨prev, next, stepped⟩ := sequencerTick_time c u
  refine ⟨⟨by rw [next, prev], by rw [prev, (sequencerTick_keeps c u).virtualTime]; exact due⟩, n + 1, ?_, ?_⟩
  · rw [prev, ok.next, boundary, seqPeriod]; omega
  · rw [stepped, phase, BitVec.add_assoc, BitVec.ofNat_add]; rfl

/-- The counters, the phase, the ports and the levels of `t` are those of `u`. -/
structure SameProgress (u t : State) : Prop where
  virtualTime : t.virtualTime = u.virtualTime
  prevFlushTime : t.prevFlushTime = u.prevFlushTime
  nextSequencerTick : t.nextSequencerTick = u.nextSequencerTick
  sequencerPhase : t.sequencerPhase = u.sequencerPhase
  port : ∀ k, t.port k = u.port k
  level : ∀ k, (t.ch k).lastAmp = (u.ch k).lastAmp

/-- What an operation can have done to the time, the ports and the levels: every READ and WRITE does what the catch-up
does, whatever the register. -/
inductive ProgressMade (i : Instr) (s t : State) : Prop where
  | caughtUp (same : SameProgress (catchUp Config.machine s) t)
  | advanced (n : Nat) (isAdvance : i = .adv n) (e : t = advanceTime n s)
  | notDue (isFlush : i = .flush) (early : s.virtualTime < Config.machine.outputPeriod) (e : t = s)
  | flushed (isFlush : i = .flush) (mixed : mix Config.machine (closeFrames Config.machine s) = .next t)

theorem exec_progress {i : Instr} {s t : State} (done : exec i s = .next t) : ProgressMade i s t := by
  obtain ⟨-, done⟩ := exec_next_cases done
  cases done with
  | read b e =>
    rw [e]; exact .caughtUp ⟨rfl, rfl, rfl, rfl, fun k => by cases k <;> rfl, fun k => by cases k <;> rfl⟩
  | ignored e => rw [e]; exact .caughtUp ⟨rfl, rfl, rfl, rfl, fun _ => rfl, fun _ => rfl⟩
  | wrote off v effect decodes _ e =>
    have kept := registerEffect_keeps decodes ((catchUp Config.machine s).storeShadow off.toNat v)
    rw [e]
    exact .caughtUp ⟨kept.virtualTime, kept.prevFlushTime, kept.nextSequencerTick, kept.sequencerPhase,
      fun k => (kept.port k).trans (by cases k <;> rfl), fun k => (kept.level k).trans (by cases k <;> rfl)⟩
  | advanced n isAdvance e => exact .advanced n isAdvance e
  | notDue isFlush early e => exact .notDue isFlush early e
  | flushed isFlush _ mixed => exact .flushed isFlush mixed

/-- Every operation keeps the counters in order (R20). -/
theorem exec_timeOk {i : Instr} {s t : State} (h : TimeOk s) (done : exec i s = .next t) : TimeOk t := by
  cases exec_progress done with
  | caughtUp same =>
    obtain ⟨next, prev⟩ := catchUp_timeOk Config.machine h
    exact ⟨by rw [same.nextSequencerTick, same.prevFlushTime, next], by rwa [same.prevFlushTime, same.virtualTime]⟩
  | advanced n _ e =>
    rw [e, advanceTime]
    split_ifs
    · exact ⟨h.next, h.prev.trans (Nat.le_add_right _ n)⟩
    · exact h
  | notDue _ _ e => rw [e]; exact h
  | flushed _ mixed => exact flushed_timeOk mixed h

/-- After an operation that runs the catch-up no tick is due (R170). -/
theorem exec_not_due {i : Instr} {s t : State} (h : TimeOk s) (done : exec i s = .next t) (notAdvance : ∀ n, i ≠ .adv n)
    (flushDue : i = .flush → Config.machine.outputPeriod ≤ s.virtualTime) : t.virtualTime < t.nextSequencerTick := by
  have caught := catchUp_exit Config.machine s
  cases exec_progress done with
  | caughtUp same => rwa [same.virtualTime, same.nextSequencerTick]
  | advanced n isAdvance _ => exact absurd isAdvance (notAdvance n)
  | notDue isFlush early _ => exact absurd (flushDue isFlush) (Nat.not_le.mpr early)
  | flushed _ mixed =>
    have within := (catchUp_timeOk Config.machine h).prev
    obtain ⟨vt, -, next, -⟩ := flushed_time mixed
    rw [vt, next, ← (catchUp_keeps Config.machine s).virtualTime]
    omega

/-- Settles O31: the counters by `exec_timeOk`, and no tick due by `exec_not_due`. -/
theorem timeCountersAfterEveryOperation : Obligations.TimeCountersAfterEveryOperation :=
  fun _ _ _ h done => ⟨(exec_timeOk h done).next, (exec_timeOk h done).prev, exec_not_due h done⟩

/-- Where the origin of a port (R198) stands after an operation that only catches up. -/
theorem frameOrigin_caughtUp {s t : State} (same : SameProgress (catchUp Config.machine s) t) (k : Chan) :
    frameOrigin t k = frameOrigin s k := by
  rw [frameOrigin, same.port k, (catchUp_keeps Config.machine s).endTicks k, frameOrigin]

/-- A due FLUSH moves the last boundary into the origin (R191, R198). -/
theorem frameOrigin_flushed {c : Config} {s t : State} (mixed : mix c (closeFrames c s) = .next t) (k : Chan) :
    frameOrigin t k = frameOrigin s k + (catchUp c s).prevFlushTime := by
  rw [frameOrigin, flushed_events mixed, endTicks_append, (catchUp_keeps c s).endTicks k, List.sum_append, frameOrigin]
  rfl

/-- An ADVANCE generates nothing. -/
theorem advanceTime_generates_nothing (n : Nat) (s : State) (k : Chan) :
    (advanceTime n s).port k = s.port k ∧ (advanceTime n s).ch k = s.ch k ∧
      (advanceTime n s).prevFlushTime = s.prevFlushTime ∧ (advanceTime n s).sequencerPhase = s.sequencerPhase := by
  unfold advanceTime
  split_ifs
  · cases k <;> exact ⟨rfl, rfl, rfl, rfl⟩
  · exact ⟨rfl, rfl, rfl, rfl⟩

theorem frameOrigin_advanceTime (n : Nat) (s : State) (k : Chan) :
    frameOrigin (advanceTime n s) k = frameOrigin s k := by
  rw [frameOrigin, (advanceTime_generates_nothing n s k).1, frameOrigin]

/-- An operation generates a whole number of periods, counted in the phase, in absolute ticks (R171, R198). -/
theorem exec_periods {i : Instr} {s t : State} (h : TimeOk s) (done : exec i s = .next t) (k : Chan) :
    ∃ n, frameOrigin t k + t.prevFlushTime = frameOrigin s k + s.prevFlushTime + 16384 * n ∧
      t.sequencerPhase = s.sequencerPhase + BitVec.ofNat 2 n := by
  obtain ⟨n, boundary, phase⟩ := catchUp_periods Config.machine h
  cases exec_progress done with
  | caughtUp same =>
    refine ⟨n, ?_, same.sequencerPhase.trans phase⟩
    rw [frameOrigin_caughtUp same, same.prevFlushTime, boundary, Nat.add_assoc]
  | advanced m _ e =>
    obtain ⟨-, -, prev, phase⟩ := advanceTime_generates_nothing m s k
    exact ⟨0, by rw [e, frameOrigin_advanceTime, prev]; rfl, by rw [e, phase]; exact (BitVec.add_zero _).symm⟩
  | notDue _ _ e => exact ⟨0, by rw [e]; rfl, by rw [e]; exact (BitVec.add_zero _).symm⟩
  | flushed _ mixed =>
    obtain ⟨-, prev, -, flushedPhase⟩ := flushed_time mixed
    refine ⟨n, ?_, flushedPhase.trans phase⟩
    rw [frameOrigin_flushed mixed, prev, boundary, Nat.add_zero, Nat.add_assoc]

/-- Every operation but ADVANCE leaves the absolute time as it is (R198). -/
theorem exec_absoluteTime {i : Instr} {s t : State} (h : TimeOk s) (done : exec i s = .next t) (k : Chan)
    (notAdvance : ∀ n, i ≠ .adv n) : frameOrigin t k + t.virtualTime = frameOrigin s k + s.virtualTime := by
  cases exec_progress done with
  | caughtUp same => rw [frameOrigin_caughtUp same, same.virtualTime, (catchUp_keeps Config.machine s).virtualTime]
  | advanced n isAdvance _ => exact absurd isAdvance (notAdvance n)
  | notDue _ _ e => rw [e]
  | flushed _ mixed =>
    have within := catchUp_prevFlushTime_le Config.machine h.prev
    rw [frameOrigin_flushed mixed, (flushed_time mixed).1]
    omega

theorem advanceTime_virtualTime (n : Nat) (s : State) :
    (advanceTime n s).virtualTime = s.virtualTime + if s.poweredOn = true then n else 0 := by
  unfold advanceTime; split_ifs <;> rfl

/-- Settles O51: an ADVANCE adds its own ticks, every other operation none; what is generated only grows. -/
theorem absoluteTimeIsTheTicksAdvanced : Obligations.AbsoluteTimeIsTheTicksAdvanced := by
  intro i k s t h done
  obtain ⟨n, generated, -⟩ := exec_periods h done k
  refine ⟨?_, by omega⟩
  split
  case h_1 n =>
    obtain ⟨-, e⟩ := operate_next (f := fun s => .next (advanceTime n s)) done
    cases e
    rw [frameOrigin_advanceTime, advanceTime_virtualTime, Nat.add_assoc]
  case h_2 notAdvance => exact exec_absoluteTime h done k notAdvance

/-- Settles O52: the periods an operation generates are those it adds to the phase. -/
theorem phaseCountsTheSequencerTicks : Obligations.PhaseCountsTheSequencerTicks := by
  intro i k s t q h generated phase done
  obtain ⟨n, more, stepped⟩ := exec_periods h done k
  exact ⟨q + n, Nat.le_add_right q n, by omega, by rw [stepped, phase, BitVec.ofNat_add]⟩

end Sys2Proof.Proofs
end

section

/-! O55, the level is the sum of the deltas (R143): `generate` alone moves a level, by what it emits. -/

namespace Sys2Proof.Proofs

open Sys2Proof.Machine

/-- The sum of the deltas on a port is its channel's level (R143). -/
def LevelIsDeltaSum (k : Chan) (s : State) : Prop := deltaSum (s.port k).events = (s.ch k).lastAmp

theorem LevelIsDeltaSum.of_same {k : Chan} {s t : State} (h : LevelIsDeltaSum k s) (port : t.port k = s.port k)
    (level : (t.ch k).lastAmp = (s.ch k).lastAmp) : LevelIsDeltaSum k t := by
  rwa [LevelIsDeltaSum, port, level]

/-- Generating keeps the level of either channel: its own by what it emits, the other untouched. -/
theorem generate_levelIsDeltaSum {c : Config} {j k : Chan} {a b : Nat} {s : State} (h : LevelIsDeltaSum k s) :
    LevelIsDeltaSum k (generate c j a b s) := by
  by_cases same : k = j
  · subst same; exact generate_level h
  · obtain ⟨-, -, -, -, others⟩ := generate_time c j a b s
    obtain ⟨ch, port⟩ := others k same
    exact h.of_same port (by rw [ch])

theorem lengthSteps_levelIsDeltaSum {k : Chan} {s : State} (h : LevelIsDeltaSum k s) : LevelIsDeltaSum k (lengthSteps s) := by
  refine h.of_same (by cases k <;> rfl) ?_
  obtain ⟨n, shape⟩ := lengthStep_shape (s.ch k)
  rw [lengthSteps_ch, shape]

theorem sequencerTick_levelIsDeltaSum {c : Config} {k : Chan} {s : State} (h : LevelIsDeltaSum k s) :
    LevelIsDeltaSum k (sequencerTick c s) := by
  have generated : LevelIsDeltaSum k (afterLengths c s) :=
    lengthSteps_levelIsDeltaSum (generate_levelIsDeltaSum (generate_levelIsDeltaSum h))
  obtain ⟨port, level⟩ := phaseSteps_port (afterLengths c s) k
  exact (generated.of_same port level).of_same (t := sequencerTick c s) (by cases k <;> rfl) (by cases k <;> rfl)

theorem catchUp_levelIsDeltaSum (c : Config) {k : Chan} {s : State} (h : LevelIsDeltaSum k s) :
    LevelIsDeltaSum k (catchUp c s) :=
  catchUp_induction c h fun _ hu _ => sequencerTick_levelIsDeltaSum hu

/-- Settles O55: the catch-up generates, and no operation does more to a port or a level than closing a frame. -/
theorem levelIsTheSumOfTheDeltas : Obligations.LevelIsTheSumOfTheDeltas := by
  intro i k s t h done
  have caught := catchUp_levelIsDeltaSum Config.machine h
  cases exec_progress done with
  | caughtUp same => exact caught.of_same (same.port k) (same.level k)
  | advanced n _ e =>
    obtain ⟨port, ch, -⟩ := advanceTime_generates_nothing n s k
    rwa [e, port, ch]
  | notDue _ _ e => rwa [e]
  | flushed _ mixed =>
    rw [flushed_events mixed, flushed_ch mixed, deltaSum_append]
    exact (Int.add_zero _).trans caught

end Sys2Proof.Proofs
end

section

/-! O34, the envelope's period (R135). Between two reloads a step only counts the delay down; the step from delay 1
reloads it and moves the volume. -/

namespace Sys2Proof.Proofs

open Sys2Proof.Machine

theorem envStep_of_paused {e : Envelope} (paused : e.period = 0 ∨ e.delay = 0) : envStep e = e := by
  obtain ⟨-, same⟩ | ⟨period, above, -⟩ | ⟨period, last, -⟩ := envStep_cases e
  · exact same
  · exact absurd paused (not_or_intro period (by bv_omega))
  · exact absurd paused (not_or_intro period (by rw [last]; decide))

theorem envStep_of_counting {e : Envelope} (period : e.period ≠ 0) (above : 2 ≤ e.delay.toNat) :
    envStep e = { e with delay := e.delay - 1 } := by
  obtain ⟨paused, -⟩ | ⟨-, -, counted⟩ | ⟨-, last, -⟩ := envStep_cases e
  · exact absurd paused (not_or_intro period (by bv_omega))
  · exact counted
  · rw [last] at above; exact absurd above (by decide)

theorem envStep_of_last {e : Envelope} (period : e.period ≠ 0) (last : e.delay = 1) :
    envStep e = { e with delay := e.period, volume := stepVolume e.direction e.volume } := by
  obtain ⟨paused, -⟩ | ⟨-, above, -⟩ | ⟨-, -, reloaded⟩ := envStep_cases e
  · exact absurd paused (not_or_intro period (by rw [last]; decide))
  · rw [last] at above; exact absurd above (by decide)
  · exact reloaded

/-- After a reload fewer than `period` steps only count the delay down. -/
theorem envStep_iterate_counting {e : Envelope} (reloaded : e.delay = e.period) {n : Nat} (before : n < e.period.toNat) :
    envStep^[n] e = { e with delay := BitVec.ofNat 3 (e.period.toNat - n) } := by
  induction n with
  | zero =>
    have same : BitVec.ofNat 3 (e.period.toNat - 0) = e.delay := by
      rw [reloaded, Nat.sub_zero, BitVec.ofNat_toNat, BitVec.setWidth_eq]
    rw [same]; rfl
  | succ n ih =>
    have delay : (BitVec.ofNat 3 (e.period.toNat - n)).toNat = e.period.toNat - n := Nat.mod_eq_of_lt (by omega)
    have counted : BitVec.ofNat 3 (e.period.toNat - n) - 1 = BitVec.ofNat 3 (e.period.toNat - (n + 1)) := by
      bv_omega
    rw [Function.iterate_succ_apply', ih (by omega), envStep_of_counting (by bv_omega) (by dsimp only; omega), counted]

/-- The volume after one step, as a number clamped to 0 and 15 (R134). -/
theorem stepVolume_eq_ofNat (d : EnvDirection) (vol : BitVec 4) :
    stepVolume d vol = BitVec.ofNat 4 (match d with
      | .inc => min 15 (vol.toNat + 1)
      | .dec => vol.toNat - 1) := by
  apply BitVec.eq_of_toNat_eq
  rw [stepVolume_toNat, BitVec.toNat_ofNat]
  cases d <;> dsimp only <;> omega

/-- The `period`-th step after a reload moves the volume and reloads again. -/
theorem envStep_iterate_period {e : Envelope} (period : e.period ≠ 0) (reloaded : e.delay = e.period) :
    envStep^[e.period.toNat] e = { e with volume := stepVolume e.direction e.volume } := by
  have last : e.period.toNat = (e.period.toNat - 1) + 1 := by bv_omega
  have one : e.period.toNat - (e.period.toNat - 1) = 1 := by omega
  rw [last, Function.iterate_succ_apply', envStep_iterate_counting reloaded (by omega), one,
    envStep_of_last (e := { e with delay := 1#3 }) period rfl, reloaded]

/-- Settles O34: the steps before the `period`-th, that step, and the paused envelope as a fixed point. -/
theorem envelopeStepsOncePerPeriod : Obligations.EnvelopeStepsOncePerPeriod := by
  refine fun e => ⟨fun period reloaded => ⟨fun n before => ?_, ?_⟩, fun paused n => ?_⟩
  · rw [envStep_iterate_counting reloaded before]
  · exact (envStep_iterate_period period reloaded).trans
      (congrArg (fun volume => { e with volume }) (stepVolume_eq_ofNat e.direction e.volume))
  · exact Function.iterate_fixed (envStep_of_paused paused) n

end Sys2Proof.Proofs
end

section

/-! O35 and O36, the frequency sweep (R136, R137): the three outcomes of a recalculation from a working copy without the
sentinel, and the steps that count the delay down to it. -/

namespace Sys2Proof.Proofs

open Sys2Proof.Machine

/-- Committing a frequency of at most 2048 (R18, R130). -/
theorem withFrequency_eq (ch : Channel) {f : BitVec 12} (h : f.toNat ≤ 2048) :
    ch.withFrequency f = { ch with frequency := f, period := BitVec.ofNat 14 ((2048 - f.toNat) * 4) } := by
  rw [Channel.withFrequency, calcPeriod, if_pos h]

theorem sweepRecalc_sub {sw : Sweep} (ch : Channel) (sub : sw.direction = .sub) : sweepRecalc sw ch =
    ({ sw with
        delay := sw.period
        shadowFrequency := BitVec.ofNat 12 (sw.shadowFrequency.toNat - sw.shadowFrequency.toNat / 2 ^ sw.shift.toNat) },
      ch.withFrequency sw.shadowFrequency) := by
  have clamped (f offset : Nat) : (if f ≤ offset then 0 else BitVec.ofNat 12 (f - offset)) = BitVec.ofNat 12 (f - offset) := by
    split_ifs with le
    · rw [Nat.sub_eq_zero_of_le le]; rfl
    · rfl
  simp only [sweepRecalc, sub, Nat.shiftRight_eq_div_pow, clamped]

theorem sweepRecalc_add {sw : Sweep} (ch : Channel) (add : sw.direction = .add)
    (fits : sw.shadowFrequency.toNat + sw.shadowFrequency.toNat / 2 ^ sw.shift.toNat < 2048) : sweepRecalc sw ch =
    ({ sw with
        delay := sw.period
        shadowFrequency := BitVec.ofNat 12 (sw.shadowFrequency.toNat + sw.shadowFrequency.toNat / 2 ^ sw.shift.toNat) },
      ch.withFrequency sw.shadowFrequency) := by
  simp only [sweepRecalc, add, Nat.shiftRight_eq_div_pow]
  exact if_neg (by omega)

theorem sweepRecalc_overflow {sw : Sweep} (ch : Channel) (add : sw.direction = .add)
    (above : 2048 ≤ sw.shadowFrequency.toNat + sw.shadowFrequency.toNat / 2 ^ sw.shift.toNat) :
    sweepRecalc sw ch = ({ sw with delay := 0, shadowFrequency := 2048 }, ch.withFrequency 2048) := by
  simp only [sweepRecalc, add, Nat.shiftRight_eq_div_pow]
  exact if_pos (by omega)

/-- Settles O35: one law per outcome, the committed frequency being at most 2048. -/
theorem sweepRecalculationIsExact : Obligations.SweepRecalculationIsExact := by
  intro sw ch below
  have committed := withFrequency_eq ch (below.trans (by decide : 2047 ≤ 2048))
  refine ⟨fun sub => ?_, fun add fits => ?_, fun add above => ?_⟩
  · rw [sweepRecalc_sub ch sub, committed]
  · rw [sweepRecalc_add ch add fits, committed]
  · rw [sweepRecalc_overflow ch add above, withFrequency_eq ch (by decide)]; rfl

/-- Fewer steps than the delay only count it down (R137). -/
theorem sweepStep_iterate_counting {s : State} (period : s.sweep.period ≠ 0) (shift : s.sweep.shift ≠ 0) {n : Nat}
    (before : n < s.sweep.delay.toNat) : sweepStep^[n] s =
      { s with sweep := { s.sweep with delay := BitVec.ofNat 3 (s.sweep.delay.toNat - n) } } := by
  induction n with
  | zero => rw [Nat.sub_zero, BitVec.ofNat_toNat, BitVec.setWidth_eq]; rfl
  | succ n ih =>
    have delay : (BitVec.ofNat 3 (s.sweep.delay.toNat - n)).toNat = s.sweep.delay.toNat - n :=
      Nat.mod_eq_of_lt (by omega)
    have counted : BitVec.ofNat 3 (s.sweep.delay.toNat - n) - 1 = BitVec.ofNat 3 (s.sweep.delay.toNat - (n + 1)) := by
      bv_omega
    rw [Function.iterate_succ_apply', ih (by omega), ← counted]
    exact sweepStep_of_counting
      (s := { s with sweep := { s.sweep with delay := BitVec.ofNat 3 (s.sweep.delay.toNat - n) } })
      period shift (by dsimp only; omega)

/-- The step that ends the delay recalculates (R137). -/
theorem sweepStep_iterate_delay {s : State} (period : s.sweep.period ≠ 0) (shift : s.sweep.shift ≠ 0)
    (delay : s.sweep.delay ≠ 0) : sweepStep^[s.sweep.delay.toNat] s = { s with
      sweep := (sweepRecalc { s.sweep with delay := 0 } s.ch1).1
      ch1 := (sweepRecalc { s.sweep with delay := 0 } s.ch1).2 } := by
  have last : s.sweep.delay.toNat = (s.sweep.delay.toNat - 1) + 1 := by bv_omega
  have one : s.sweep.delay.toNat - (s.sweep.delay.toNat - 1) = 1 := by omega
  rw [last, Function.iterate_succ_apply', sweepStep_iterate_counting period shift (by omega), one]
  exact sweepStep_of_last (s := { s with sweep := { s.sweep with delay := 1 } }) period shift rfl

/-- Settles O36: the countdown, the recalculation that ends it, and the stopped sweep as a fixed point. -/
theorem sweepStepsCountDownToARecalculation : Obligations.SweepStepsCountDownToARecalculation :=
  fun _ => ⟨fun period shift delay =>
      ⟨fun _ before => sweepStep_iterate_counting period shift before, sweepStep_iterate_delay period shift delay⟩,
    fun stopped n => Function.iterate_fixed (sweepStep_of_stopped stopped) n⟩

end Sys2Proof.Proofs
end

section

/-! O39 and O40, waveform generation (R140 to R142). The loop of R141 is solved for any number of passes: the events and
the exit values are those of a list of levels. -/

namespace Sys2Proof.Proofs

open Sys2Proof.Machine

/-- Settles O39: each of the three reasons makes the generator's test true, and the off branch is the statement's. -/
theorem offChannelReturnsToZero : Obligations.OffChannelReturnsToZero := by
  intro c k a b s reason
  have off : (s.ch k).off = true := by
    obtain disabled | ⟨enabled, expired⟩ | period := reason
    · simp [Channel.off, disabled]
    · simp [Channel.off, Channel.lengthSilenced, enabled, expired]
    · simp [Channel.off, period]
  rw [generate, if_pos off]
  exact ⟨fun silent => if_pos silent, fun sounding => if_neg sounding⟩

/-- The level before pass `i` of the loop: the one found, or that of the pass before (R142). -/
def levelBefore (amp : BitVec 3 → Int) (phase : BitVec 3) (last : Int) (i : Nat) : Int :=
  if i = 0 then last else amp (phase + BitVec.ofNat 3 (i - 1))

/-- What pass `i` of the loop emits: the change of the level, if any (R142). -/
def passEvent (amp : BitVec 3 → Int) (period cursor : Nat) (phase : BitVec 3) (last : Int) (i : Nat) :
    Option PortEvent :=
  if amp (phase + BitVec.ofNat 3 i) = levelBefore amp phase last i then none
  else some (.addDelta (cursor + i * period) (amp (phase + BitVec.ofNat 3 i) - levelBefore amp phase last i))

theorem phase_succ (phase : BitVec 3) (i : Nat) : phase + 1 + BitVec.ofNat 3 i = phase + BitVec.ofNat 3 (i + 1) := by
  rw [Nat.add_comm i, BitVec.ofNat_add, BitVec.add_assoc]; rfl

theorem levelBefore_succ (amp : BitVec 3 → Int) (phase : BitVec 3) (last : Int) (i : Nat) :
    levelBefore amp phase last (i + 1) = levelBefore amp (phase + 1) (amp phase) i := by
  cases i with
  | zero => simp [levelBefore]
  | succ i => exact congrArg amp (phase_succ phase i).symm

theorem passEvent_zero (amp : BitVec 3 → Int) (period cursor : Nat) (phase : BitVec 3) (last : Int) :
    passEvent amp period cursor phase last 0 =
      if amp phase = last then none else some (.addDelta cursor (amp phase - last)) := by
  simp [passEvent, levelBefore]

/-- Pass `i + 1` of the loop is pass `i` of the loop after its first. -/
theorem passEvent_succ (amp : BitVec 3 → Int) (period cursor : Nat) (phase : BitVec 3) (last : Int) (i : Nat) :
    passEvent amp period cursor phase last (i + 1) = passEvent amp period (cursor + period) (phase + 1) (amp phase) i := by
  have tick : cursor + (i + 1) * period = cursor + period + i * period := by ring
  rw [passEvent, passEvent, levelBefore_succ, phase_succ, tick]

theorem filterMap_range_succ {α : Type} (f : Nat → Option α) (n : Nat) :
    (List.range (n + 1)).filterMap f = (f 0).toList ++ (List.range n).filterMap fun i => f (i + 1) := by
  rw [List.range_succ_eq_map, List.filterMap_cons, List.filterMap_map]
  cases f 0 <;> rfl

/-- The loop of R141 with fuel for its `m` passes: all of them run when only the `m`-th leaves the cursor past the end. -/
theorem generateLoop_eq (amp : BitVec 3 → Int) (period endTick m : Nat) :
    ∀ {fuel cursor : Nat} (phase : BitVec 3) (last : Int), m ≤ fuel → endTick < cursor + m * period →
      (m ≠ 0 → cursor + (m - 1) * period ≤ endTick) →
      generateLoop amp period endTick fuel cursor phase last =
        ⟨(List.range m).filterMap (passEvent amp period cursor phase last), cursor + m * period,
          phase + BitVec.ofNat 3 m, levelBefore amp phase last m⟩ := by
  induction m with
  | zero =>
    intro fuel cursor phase last _ past _
    have exit : ¬ cursor ≤ endTick := by omega
    cases fuel <;> simp [generateLoop, exit, levelBefore]
  | succ m ih =>
    intro fuel cursor phase last enough past within
    obtain ⟨fuel, rfl⟩ : ∃ f, fuel = f + 1 := ⟨fuel - 1, by omega⟩
    have first : cursor ≤ endTick := le_trans (Nat.le_add_right _ _) (within (Nat.succ_ne_zero m))
    have next : cursor + (m + 1) * period = cursor + period + m * period := by ring
    have rest := ih (fuel := fuel) (cursor := cursor + period) (phase + 1) (amp phase) (by omega) (by omega) fun ne => by
      have := within (Nat.succ_ne_zero m)
      obtain ⟨m, rfl⟩ := Nat.exists_eq_succ_of_ne_zero ne
      have split : (m + 1) * period = m * period + period := by ring
      simp only [Nat.succ_eq_add_one, Nat.add_sub_cancel] at this ⊢
      omega
    rw [generateLoop, if_pos first]
    dsimp only
    rw [rest, filterMap_range_succ, levelBefore_succ, ← phase_succ, next]
    simp only [passEvent_zero, passEvent_succ]
    split_ifs <;> rfl

theorem period_pos_of_on {ch : Channel} (on : ch.off = false) : 1 ≤ ch.period.toNat := by
  have nonzero : ch.period ≠ 0 := fun zero => by simp [Channel.off, zero] at on
  bv_omega

/-- The number of passes in one sequencer period is the one whose last cursor lies inside it (R142). -/
theorem passes_bounds {p d : Nat} (positive : 1 ≤ p) (carried : d ≤ 16384) :
    d + (16384 - d) / p * p ≤ 16384 ∧ 16384 < d + ((16384 - d) / p + 1) * p := by
  have value := Nat.div_add_mod (16384 - d) p
  have rest := Nat.mod_lt (16384 - d) positive
  rw [Nat.add_mul, Nat.one_mul, Nat.mul_comm _ p]
  omega

/-- Settles O40: the loop makes the passes whose cursor lies inside the period, and its exit gives the carry-over. -/
theorem generationClosedForm : Obligations.GenerationClosedForm := by
  intro c k a s on ch p d n level before
  have positive : 1 ≤ p := period_pos_of_on on
  obtain ⟨inside, past⟩ : d + (n - 1) * p ≤ 16384 ∧ 16384 < d + n * p := passes_bounds positive (by omega)
  have passes : n ≤ 16384 + 1 := Nat.succ_le_succ ((Nat.div_le_self _ _).trans (Nat.sub_le _ _))
  have loop := generateLoop_eq (amplitude c ch) p (a + 16384) n (fuel := a + 16384 + 1 - a) (cursor := a + d) ch.phase
    ch.lastAmp (by omega) (by omega) (fun _ => by omega)
  have carry : a + d + n * p - (a + 16384) = d + n * p - 16384 := by omega
  have step : n * p = (n - 1) * p + p := by rw [← Nat.succ_mul]; rfl
  refine ⟨?_, by omega, by omega⟩
  rw [generate, if_neg (by simp [on]), generateOn]
  dsimp only
  rw [loop, carry]
  rfl

end Sys2Proof.Proofs
end

section

/-! O14 to O19, O21 to O23, the register writes (R96 to R105). An accepted write is its decoding on the caught-up state
with the byte stored; what is left is each register's fields as numbers (Laws/Operands.lean). -/

namespace Sys2Proof.Proofs

open Sys2Proof.Machine

/-- The caught-up state with the byte of a write stored, on which the register's decoding runs (R95 steps 1 to 4). -/
def storedState (off : Nat) (v : Byte) (s : State) : State :=
  { catchUp Config.machine s with shadow := Memory.write s.shadow off v }

/-- A write accepted on a running unit, whose instruction is given by its offset and decoding. -/
theorem exec_accepted {i : Instr} (off : Byte) {v : Byte} {effect : State → State} {s : State} (running : s.faulted = false)
    (open_ : off.toNat = 0x16 ∨ s.poweredOn = true) (inBlock : off.toNat ≤ 0x16)
    (isWrite : exec i s = writeOffset Config.machine off v effect s) :
    exec i s = .next (effect (storedState off.toNat v s)) := by
  rw [isWrite, writeOffset_accepted _ v effect running inBlock open_, storedState, State.storeShadow,
    (catchUp_keeps _ s).shadow]

/-- Settles O14: the sweep register's three fields as numbers (D7). -/
theorem writeSweepLoadsItsFields : Obligations.WriteSweepLoadsItsFields := by
  intro v s running power
  rw [exec_accepted 0x00#8 running (.inr power) (by decide) rfl, writeSweep, sweepPeriodField_eq, sweepDirectionField_eq,
    sweepShiftField_eq]
  rfl

/-- Settles O15: on either channel, duty and length as numbers (D8). -/
theorem writeDutyLenLoadsItsFields : Obligations.WriteDutyLenLoadsItsFields := by
  intro v s running power
  rw [exec_accepted 0x01#8 running (.inr power) (by decide) rfl, exec_accepted 0x06#8 running (.inr power) (by decide) rfl,
    writeDutyLen, writeDutyLen, dutyField_eq, lengthLoad_eq]
  exact ⟨rfl, rfl⟩

/-- The envelope's control write by its fields as numbers (R98, D9). -/
theorem envControlWrite_eq (v : Byte) (e : Envelope) : envControlWrite v e =
    { e with
      period := BitVec.ofNat 3 v.toNat
      direction := if v.toNat / 8 % 2 = 1 then .inc else .dec
      initialVolume := BitVec.ofNat 4 (v.toNat / 16)
      volume := BitVec.ofNat 4 (v.toNat / 16) } := by
  rw [envControlWrite, envPeriodField_eq, envDirectionField_eq, initialVolumeField_eq]

/-- Settles O16: on either channel by `envControlWrite_eq`; the delay is no field of the byte. -/
theorem writeEnvelopeLoadsItsFields : Obligations.WriteEnvelopeLoadsItsFields := by
  intro v s running power
  rw [exec_accepted 0x02#8 running (.inr power) (by decide) rfl, exec_accepted 0x07#8 running (.inr power) (by decide) rfl,
    writeEnv, writeEnv, envControlWrite_eq, envControlWrite_eq]
  exact ⟨rfl, rfl⟩

theorem withFrequency_ofNat (ch : Channel) {n : Nat} (h : n ≤ 2048) :
    ch.withFrequency (BitVec.ofNat 12 n) =
      { ch with frequency := BitVec.ofNat 12 n, period := BitVec.ofNat 14 ((2048 - n) * 4) } := by
  rw [Channel.withFrequency, calcPeriod_ofNat h]

/-- Settles O17: the byte replaces the low half of the frequency, whose period `withFrequency_ofNat` gives (D12). -/
theorem writeFreqLoLoadsTheLowByte : Obligations.WriteFreqLoLoadsTheLowByte := by
  intro v s running power
  rw [exec_accepted 0x03#8 running (.inr power) (by decide) rfl, exec_accepted 0x08#8 running (.inr power) (by decide) rfl,
    writeFreqLo, writeFreqLo, frequencyWithLow_eq, frequencyWithLow_eq, withFrequency_ofNat _ (by omega),
    withFrequency_ofNat _ (by omega)]
  exact ⟨rfl, rfl⟩

/-- The frequency, as a number, that a high-byte write of `v` gives a channel (R71). -/
def highWritten (ch : Channel) (v : Byte) : Nat := ch.frequency.toNat % 256 + v.toNat % 8 * 256

theorem highWritten_le (ch : Channel) (v : Byte) : highWritten ch v ≤ 2047 := by unfold highWritten; omega

/-- What every frequency-high write loads (R100, D10, D11). -/
def highLoaded (ch : Channel) (v : Byte) : Channel :=
  { ch with
    frequency := BitVec.ofNat 12 (highWritten ch v)
    period := BitVec.ofNat 14 ((2048 - highWritten ch v) * 4)
    lengthEnabled := decide (64 ≤ v.toNat % 128) }

theorem loadFreqHi_eq (k : Chan) (v : Byte) (s : State) : loadFreqHi k v s = s.setCh k (highLoaded (s.ch k) v) := by
  rw [loadFreqHi, frequencyWithHigh_eq, ← highWritten,
    withFrequency_ofNat _ (Nat.le_succ_of_le (highWritten_le (s.ch k) v)), lengthEnableField_eq, highLoaded]

theorem writeFreqHi_plain (k : Chan) {v : Byte} (plain : v.toNat < 128) (s : State) :
    writeFreqHi k v s = loadFreqHi k v s :=
  if_neg (by rw [triggerField_eq]; simpa using plain)

theorem writeFreqHi_triggered (k : Chan) {v : Byte} (triggered : 128 ≤ v.toNat) (s : State) :
    writeFreqHi k v s = trigger k (loadFreqHi k v s) :=
  if_pos (by rw [triggerField_eq]; simpa using triggered)

/-- Settles O18: with bit 7 clear a frequency-high write is only its load. -/
theorem writeFreqHiWithoutTrigger : Obligations.WriteFreqHiWithoutTrigger := by
  intro v s running power plain
  rw [exec_accepted 0x04#8 running (.inr power) (by decide) rfl, exec_accepted 0x09#8 running (.inr power) (by decide) rfl,
    writeFreqHi_plain _ plain, writeFreqHi_plain _ plain, loadFreqHi_eq, loadFreqHi_eq, highLoaded, highLoaded,
    Nat.mod_eq_of_lt plain]
  exact ⟨rfl, rfl⟩

/-- Settles O19: the load, then the trigger of a channel without a sweep. -/
theorem triggerRestartsChannelTwo : Obligations.TriggerRestartsChannelTwo := by
  intro v s running power triggered
  dsimp only
  rw [exec_accepted 0x09#8 running (.inr power) (by decide) rfl, writeFreqHi_triggered _ triggered, loadFreqHi_eq, trigger_two]
  rfl

/-- Settles O21: which field a side takes is the configuration's (D14). -/
theorem writeMasterVolumeLoadsBothSides : Obligations.WriteMasterVolumeLoadsBothSides := by
  intro v s running power
  rw [exec_accepted 0x14#8 running (.inr power) (by decide) rfl, writeMasterVol, masterLeftField_eq, masterRightField_eq]
  rfl

/-- Settles O22: each of the twelve rows is a write at its offset with nothing to decode. -/
theorem writeRoutingAndUnusedOnlyStore : Obligations.WriteRoutingAndUnusedOnlyStore := by
  intro v s running power p row
  obtain ⟨off, offset, inBlock, isWrite⟩ : ∃ off : Byte, off.toNat = p.2 ∧ off.toNat ≤ 0x16 ∧
      exec p.1 s = writeOffset Config.machine off v writeShadowOnly s := by
    simp only [List.mem_cons, List.not_mem_nil, or_false] at row
    rcases row with rfl | rfl | rfl | rfl | rfl | rfl | rfl | rfl | rfl | rfl | rfl | rfl <;>
      exact ⟨BitVec.ofNat 8 _, rfl, by decide, rfl⟩
  rw [exec_accepted off running (.inr power) inBlock isWrite, offset]
  rfl

/-- Settles O23: the power register passes the gate, powered or not (R107). -/
theorem writePowerSetsThePower : Obligations.WritePowerSetsThePower := by
  intro v s running
  rw [exec_accepted 0x16#8 running (.inl rfl) (by decide) rfl, writePower, powerField_eq]
  rfl

end Sys2Proof.Proofs
end

section

/-! O20, the trigger of channel 1 (R101, R139). Its sweep either recalculates at once, with one of the three outcomes of
R136, or only takes the frequency. -/

namespace Sys2Proof.Proofs

open Sys2Proof.Machine

/-- Channel 1 restarted and its frequency copied into the sweep (R139 lines 1 to 4). -/
def sweepLoaded (s : State) : State :=
  { s with sweep := { s.sweep with shadowFrequency := s.ch1.frequency }, ch1 := s.ch1.restart }

theorem trigger_one_eq (s : State) : trigger .one s =
    envTriggerState .one (if sweepActive .one s.sweep then sweepRecalcState (sweepLoaded s) else sweepLoaded s) := rfl

/-- A trigger with an inactive sweep only copies the frequency into it. -/
theorem trigger_one_of_inactive {s : State} (inactive : ¬ (s.sweep.period ≠ 0 ∧ s.sweep.shift ≠ 0)) :
    trigger .one s = { s with
      sweep := { s.sweep with shadowFrequency := s.ch1.frequency }
      ch1 := { s.ch1.restart with env := envTrigger s.ch1.env } } := by
  rw [trigger_one_eq, if_neg (mt (sweepActive_one_iff s.sweep).mp inactive)]
  rfl

/-- A trigger with an active sweep recalculates from the copied frequency. -/
theorem trigger_one_of_active {s : State} (active : s.sweep.period ≠ 0 ∧ s.sweep.shift ≠ 0) {sw : Sweep} {ch : Channel}
    (recalculated : sweepRecalc { s.sweep with shadowFrequency := s.ch1.frequency } s.ch1.restart = (sw, ch)) :
    trigger .one s = { s with sweep := sw, ch1 := { ch with env := envTrigger ch.env } } := by
  have outcome : sweepRecalcState (sweepLoaded s) = { s with sweep := sw, ch1 := ch } := by
    have hs := congrArg Prod.fst recalculated
    have hc := congrArg Prod.snd recalculated
    dsimp only at hs hc
    rw [← hs, ← hc]
    rfl
  rw [trigger_one_eq, if_pos ((sweepActive_one_iff s.sweep).mpr active), outcome]
  rfl

theorem sweepDirection_cases (d : SweepDirection) : d = .sub ∨ d = .add := by cases d <;> simp

/-- Settles O20: by whether the sweep is active, its direction, and the overflow. -/
theorem triggerRestartsChannelOneAndItsSweep : Obligations.TriggerRestartsChannelOneAndItsSweep := by
  intro v s running power triggered u f active offset overflow
  have below : f ≤ 2047 := highWritten_le u.ch1 v
  let copied : Sweep := { u.sweep with shadowFrequency := BitVec.ofNat 12 f }
  have value : copied.shadowFrequency.toNat = f := Nat.mod_eq_of_lt (by omega)
  rw [exec_accepted 0x04#8 running (.inr power) (by decide) rfl, writeFreqHi_triggered _ triggered, loadFreqHi_eq]
  let loaded := (storedState 0x04 v s).setCh .one (highLoaded u.ch1 v)
  have committed : loaded.ch1.restart.withFrequency copied.shadowFrequency = _ :=
    withFrequency_ofNat loaded.ch1.restart (Nat.le_succ_of_le below)
  refine congrArg _ ?_
  change trigger .one loaded = _
  by_cases isActive : active
  · obtain sub | add := sweepDirection_cases u.sweep.direction
    · have notAdd : u.sweep.direction ≠ .add := by rw [sub]; nofun
      have noOverflow : ¬ overflow := fun overflows => notAdd overflows.2.1
      have recalculated := sweepRecalc_sub (sw := copied) loaded.ch1.restart sub
      rw [value, committed] at recalculated
      refine (trigger_one_of_active (s := loaded) isActive recalculated).trans ?_
      simp only [if_neg noOverflow, if_pos isActive, if_neg notAdd]
      rfl
    · by_cases overflows : overflow
      · have recalculated := sweepRecalc_overflow (sw := copied) loaded.ch1.restart add
          (by rw [value]; exact overflows.2.2)
        refine (trigger_one_of_active (s := loaded) isActive recalculated).trans ?_
        simp only [if_pos overflows]
        rfl
      · have fits : f + offset < 2048 := Nat.not_le.mp fun above => overflows ⟨isActive, add, above⟩
        have recalculated := sweepRecalc_add (sw := copied) loaded.ch1.restart add (by rw [value]; exact fits)
        rw [value, committed] at recalculated
        refine (trigger_one_of_active (s := loaded) isActive recalculated).trans ?_
        simp only [if_neg overflows, if_pos isActive, if_pos add]
        rfl
  · have noOverflow : ¬ overflow := fun overflows => isActive overflows.1
    refine (trigger_one_of_inactive (s := loaded) isActive).trans ?_
    simp only [if_neg noOverflow, if_neg isActive]
    rfl

end Sys2Proof.Proofs
end

section

/-! O25, a frequency written in two halves (R71, R242). -/

namespace Sys2Proof.Proofs

open Sys2Proof.Machine

theorem storedState_of_not_due {s : State} (notDue : s.virtualTime < s.nextSequencerTick) (off : Nat) (v : Byte) :
    storedState off v s = { s with shadow := Memory.write s.shadow off v } := by
  rw [storedState, catchUp_of_not_due _ notDue]

/-- The shadow is no part of a channel. -/
theorem ch_withShadow (s : State) (m : Memory) (k : Chan) : ({ s with shadow := m } : State).ch k = s.ch k := by
  cases k <;> rfl

/-- A high-byte write after a low-byte write of `lo` leaves the frequency of the two halves (R71). -/
theorem highWritten_after_low {ch : Channel} {f : Nat} {lo : Byte} (hi : Byte)
    (low : ch.frequency = BitVec.ofNat 12 (f / 256 % 8 * 256 + lo.toNat)) :
    highWritten ch hi = hi.toNat % 8 * 256 + lo.toNat := by
  rw [highWritten, low, BitVec.toNat_ofNat]; omega

/-- The two halves on either channel; `iLo` and `iHi` are the instructions of its two frequency registers. -/
theorem frequency_of_two_halves (k : Chan) {iLo iHi : Instr} {offLo offHi lo hi : Byte} {s t u : State}
    (inLo : offLo.toNat ≤ 0x16) (isLow : ∀ s, exec iLo s = writeOffset Config.machine offLo lo (writeFreqLo k lo) s)
    (inHi : offHi.toNat ≤ 0x16) (isHigh : ∀ s, exec iHi s = writeOffset Config.machine offHi hi (writeFreqHi k hi) s)
    (power : s.poweredOn = true) (notDue : s.virtualTime < s.nextSequencerTick) (plain : hi.toNat < 128)
    (first : exec iLo s = .next t) (second : exec iHi t = .next u) :
    (u.ch k).frequency.toNat = hi.toNat % 8 * 256 + lo.toNat ∧
      (u.ch k).period.toNat = (2048 - (hi.toNat % 8 * 256 + lo.toNat)) * 4 ∧ ∀ j, j ≠ k → u.ch j = s.ch j := by
  rw [exec_accepted offLo (exec_next_cases first).1 (.inr power) inLo (isLow s), storedState_of_not_due notDue,
    writeFreqLo, frequencyWithLow_eq, ch_withShadow] at first
  have low := (Host.Outcome.next.inj first).symm
  have tPower : t.poweredOn = true := by rw [low, setCh_poweredOn]; exact power
  have tNotDue : t.virtualTime < t.nextSequencerTick := by
    rw [low, setCh_virtualTime, setCh_nextSequencerTick]; exact notDue
  rw [exec_accepted offHi (exec_next_cases second).1 (.inr tPower) inHi (isHigh t), storedState_of_not_due tNotDue,
    writeFreqHi_plain k plain, loadFreqHi_eq, ch_withShadow] at second
  have high := (Host.Outcome.next.inj second).symm
  have written : highWritten (t.ch k) hi = hi.toNat % 8 * 256 + lo.toNat :=
    highWritten_after_low (f := (s.ch k).frequency.toNat) hi (by rw [low, ch_setCh]; rfl)
  rw [high, ch_setCh, highLoaded, written]
  refine ⟨Nat.mod_eq_of_lt (by omega), Nat.mod_eq_of_lt (by omega), fun j other => ?_⟩
  rw [ch_setCh_ne _ _ _ _ other, ch_withShadow, low, ch_setCh_ne _ _ _ _ other, ch_withShadow]

/-- Settles O25: one law for both channels. -/
theorem frequencyIsWrittenInTwoHalves : Obligations.FrequencyIsWrittenInTwoHalves := by
  refine fun lo hi s t u power notDue plain => ⟨fun first second => ?_, fun first second => ?_⟩
  · obtain ⟨frequency, period, others⟩ := frequency_of_two_halves .one (offLo := 0x03#8) (offHi := 0x04#8) (by decide)
      (fun _ => rfl) (by decide) (fun _ => rfl) power notDue plain first second
    exact ⟨frequency, period, others .two (by decide)⟩
  · obtain ⟨frequency, period, others⟩ := frequency_of_two_halves .two (offLo := 0x08#8) (offHi := 0x09#8) (by decide)
      (fun _ => rfl) (by decide) (fun _ => rfl) power notDue plain first second
    exact ⟨frequency, period, others .one (by decide)⟩

end Sys2Proof.Proofs
end

section

/-! O26, O37 and O53: what a write does to the envelopes, to a stopped sweep and to `enabled`, said once per register
effect; a well-formed instruction is tied to its offset and byte by its command word. -/

namespace Sys2Proof.Proofs

open Sys2Proof.Machine

/-! ### The effect of a write by its offset -/

/-- At every offset of the block a write decodes into the effect of that offset's row (R95 step 5). -/
theorem registerEffect_effectOf {off : Byte} (v : Byte) (inBlock : off.toNat ≤ 0x16) :
    RegisterEffect off v (effectOf off v) := by
  unfold effectOf
  split
  case h_12 =>
    simp only [imp_false] at *
    exact .shadowOnly off v (by unfold shadowOnlyOffset; omega)
  all_goals rename_i offset; obtain rfl := offset_eq_ofNat offset
  · exact .sweep v
  · exact .dutyLen1 v
  · exact .env1 v
  · exact .freqLo1 v
  · exact .freqHi1 v
  · exact .dutyLen2 v
  · exact .env2 v
  · exact .freqLo2 v
  · exact .freqHi2 v
  · exact .masterVol v
  · exact .power v

/-- The offset of a channel's frequency-high register (R62). -/
def freqHiOffset : Chan → Byte
  | .one => 0x04#8
  | .two => 0x09#8

/-- The offset of a channel's envelope control register (R62). -/
def envOffset : Chan → Byte
  | .one => 0x02#8
  | .two => 0x07#8

theorem shadowOnly_ne_offsets {off : Byte} (only : shadowOnlyOffset off) (k : Chan) :
    off ≠ envOffset k ∧ off ≠ freqHiOffset k := by
  unfold shadowOnlyOffset at only
  cases k <;> refine ⟨fun same => ?_, fun same => ?_⟩ <;> subst same <;> simp [envOffset, freqHiOffset] at only

/-- A trigger restarts its channel's envelope and no other (R139). -/
theorem trigger_env (j k : Chan) (s : State) :
    ((trigger k s).ch j).env = if j = k then envTrigger (s.ch j).env else (s.ch j).env := by
  cases k with
  | two => cases j <;> rfl
  | one =>
    obtain ⟨_, _, ch, shape, -⟩ := trigger_one_shape s
    rw [shape]; cases j <;> rfl

theorem loadFreqHi_env (j k : Chan) (v : Byte) (s : State) : ((loadFreqHi k v s).ch j).env = (s.ch j).env := by
  cases j <;> cases k <;> rfl

theorem writeFreqHi_env (j k : Chan) (v : Byte) (s : State) :
    ((writeFreqHi k v s).ch j).env = if j = k ∧ 128 ≤ v.toNat then envTrigger (s.ch j).env else (s.ch j).env := by
  by_cases triggered : 128 ≤ v.toNat
  · rw [writeFreqHi_triggered k triggered, trigger_env, loadFreqHi_env]; simp [triggered]
  · rw [writeFreqHi_plain k (Nat.not_le.mp triggered), loadFreqHi_env]; simp [triggered]

/-- R108: an envelope reacts to the writes of its two offsets alone. -/
theorem registerEffect_env {off v : Byte} {effect : State → State} (e : RegisterEffect off v effect) (s : State)
    (k : Chan) : ((effect s).ch k).env =
      if off = envOffset k then envControlWrite v (s.ch k).env
      else if off = freqHiOffset k ∧ 128 ≤ v.toNat then envTrigger (s.ch k).env
      else (s.ch k).env := by
  cases e
  case shadowOnly only =>
    obtain ⟨notEnv, notFreqHi⟩ := shadowOnly_ne_offsets only k
    rw [if_neg notEnv, if_neg (fun both => notFreqHi both.1)]
    rfl
  case freqHi1 =>
    rw [writeFreqHi_env]
    cases k <;> simp [envOffset, freqHiOffset]
  case freqHi2 =>
    rw [writeFreqHi_env]
    cases k <;> simp [envOffset, freqHiOffset]
  all_goals cases k <;> rfl

/-- A write that is not accepted is its catch-up (R106, R107). -/
theorem writeOffset_blocked (c : Config) {off : Byte} (v : Byte) (effect : State → State) {s : State}
    (running : s.faulted = false) (blocked : ¬ (off.toNat ≤ 0x16 ∧ (off.toNat = 0x16 ∨ s.poweredOn = true))) :
    writeOffset c off v effect s = .next (catchUp c s) := by
  by_cases out : 0x16 < off.toNat
  · exact writeOffset_outside c v effect running out
  · have gated : off.toNat ≠ 0x16 ∧ s.poweredOn ≠ true :=
      not_or.mp fun open_ => blocked ⟨Nat.not_lt.mp out, open_⟩
    exact writeOffset_gated c v effect running (by omega) (by simpa using gated.2)

/-- Settles O26: an accepted write by `registerEffect_env`; for a blocked one neither offset is in question. -/
theorem envelopeReactsOnlyToItsTwoAddresses : Obligations.EnvelopeReactsOnlyToItsTwoAddresses := by
  intro off v k s t done e ctrl freqHi
  have hctrl : ctrl = envOffset k := by cases k <;> rfl
  have hfreqHi : freqHi = freqHiOffset k := by cases k <;> rfl
  have inBlock : (envOffset k).toNat < 0x16 ∧ (freqHiOffset k).toNat < 0x16 := by cases k <;> decide
  rw [exec_write_word] at done
  have running := (operate_next done).1
  rw [hctrl, hfreqHi]
  by_cases accepted : off.toNat ≤ 0x16 ∧ (off.toNat = 0x16 ∨ s.poweredOn = true)
  · rw [writeOffset_accepted _ v _ running accepted.1 accepted.2] at done
    cases done
    have stored : (((catchUp Config.machine s).storeShadow off.toNat v).ch k).env = e := by cases k <;> rfl
    rw [registerEffect_env (registerEffect_effectOf v accepted.1), stored, envControlWrite_eq]
    by_cases power : s.poweredOn = true
    · simp only [power, true_and]; rfl
    · have offset : off.toNat = 0x16 := accepted.2.resolve_right power
      have notEnv : off ≠ envOffset k := fun same => by rw [same] at offset; omega
      have notFreqHi : off ≠ freqHiOffset k := fun same => by rw [same] at offset; omega
      simp [power, notEnv, notFreqHi]
  · rw [writeOffset_blocked _ v _ running accepted] at done
    cases done
    have notEnv : ¬ (s.poweredOn = true ∧ off = envOffset k) := fun ⟨power, same⟩ =>
      accepted ⟨by rw [same]; omega, .inr power⟩
    have notFreqHi : ¬ (s.poweredOn = true ∧ off = freqHiOffset k ∧ 128 ≤ v.toNat) := fun ⟨power, same, _⟩ =>
      accepted ⟨by rw [same]; omega, .inr power⟩
    rw [if_neg notEnv, if_neg notFreqHi]

/-! ### Well-formed instructions by their command words -/

/-- What a well-formed instruction leaves of the sweep and the channels: what the catch-up leaves of them, or nothing
changed at all, or the effect of the write it is. -/
theorem exec_registers {i : Instr} {s t : State} (wf : i.wellFormed = true) (done : exec i s = .next t) :
    (∃ u, (u = s ∨ u = catchUp Config.machine s) ∧ t.sweep = u.sweep ∧ ∀ k, t.ch k = u.ch k) ∨
      ∃ off v, i = decodeWrite off v ∧ RegisterEffect off v (effectOf off v) ∧
        t = effectOf off v ((catchUp Config.machine s).storeShadow off.toNat v) := by
  obtain ⟨op, off, data, rfl⟩ : ∃ op off data, i = decode (packWord op off data) :=
    ⟨_, _, _, by rw [packWord_fields, decode_encode wf]⟩
  obtain rfl | rfl | rfl | rfl := op_cases op
  · obtain ⟨-, b, rfl⟩ := readOffset_next ((exec_read_word off data s).symm.trans done)
    exact .inl ⟨_, .inr rfl, rfl, fun k => by cases k <;> rfl⟩
  · obtain ⟨-, rfl | ⟨inBlock, -, written⟩⟩ := writeOffset_next ((exec_write_word off data s).symm.trans done)
    · exact .inl ⟨_, .inr rfl, rfl, fun _ => rfl⟩
    · exact .inr ⟨off, data, decode_writeWord off data, registerEffect_effectOf data inBlock, written⟩
  · rw [decode_advanceWord] at done
    obtain ⟨-, e⟩ := operate_next (f := fun s => .next (advanceTime _ s)) done
    cases e
    exact .inl ⟨s, .inl rfl, by unfold advanceTime; split_ifs <;> rfl,
      fun k => (advanceTime_generates_nothing _ s k).2.1⟩
  · rw [decode_flushWord] at done
    obtain ⟨-, flushed⟩ := operate_next (show flushOp Config.machine s = .next t from done)
    split_ifs at flushed with due
    · obtain ⟨⟨_, _, _, shape⟩, -⟩ := mix_next flushed
      exact .inl ⟨_, .inr rfl, by rw [shape]; rfl, flushed_ch flushed⟩
    · cases flushed
      exact .inl ⟨s, .inl rfl, rfl, fun _ => rfl⟩

/-! ### `enabled` -/

/-- A trigger enables its channel and no other (R139). -/
theorem trigger_enabled (j k : Chan) (s : State) :
    ((trigger k s).ch j).enabled = if j = k then true else (s.ch j).enabled := by
  cases k with
  | two => cases j <;> rfl
  | one =>
    obtain ⟨_, _, ch, shape, rfl | ⟨_, rfl⟩⟩ := trigger_one_shape s <;> rw [shape] <;> cases j <;> rfl

theorem loadFreqHi_enabled (j k : Chan) (v : Byte) (s : State) :
    ((loadFreqHi k v s).ch j).enabled = (s.ch j).enabled := by
  cases j <;> cases k <;> rfl

theorem writeFreqHi_enabled (j k : Chan) (v : Byte) (s : State) :
    ((writeFreqHi k v s).ch j).enabled = if j = k ∧ 128 ≤ v.toNat then true else (s.ch j).enabled := by
  by_cases triggered : 128 ≤ v.toNat
  · rw [writeFreqHi_triggered k triggered, trigger_enabled, loadFreqHi_enabled]; simp [triggered]
  · rw [writeFreqHi_plain k (Nat.not_le.mp triggered), loadFreqHi_enabled]; simp [triggered]

/-- A channel is enabled by its trigger and touched by no other write (R16, C1). -/
theorem registerEffect_enabled {off v : Byte} {effect : State → State} (e : RegisterEffect off v effect) (s : State)
    (k : Chan) : ((effect s).ch k).enabled =
      if off = freqHiOffset k ∧ 128 ≤ v.toNat then true else (s.ch k).enabled := by
  cases e
  case shadowOnly only =>
    rw [if_neg (fun both => (shadowOnly_ne_offsets only k).2 both.1)]
    rfl
  case freqHi1 =>
    rw [writeFreqHi_enabled]
    cases k <;> simp [freqHiOffset]
  case freqHi2 =>
    rw [writeFreqHi_enabled]
    cases k <;> simp [freqHiOffset]
  all_goals cases k <;> rfl

/-- The `enabled` of a channel after a well-formed instruction: as before, or set by a trigger write. -/
theorem exec_enabled {i : Instr} {s t : State} (wf : i.wellFormed = true) (done : exec i s = .next t) (k : Chan) :
    (t.ch k).enabled = (s.ch k).enabled ∨
      (t.ch k).enabled = true ∧ ∃ v : Byte, 128 ≤ v.toNat ∧ i = decodeWrite (freqHiOffset k) v := by
  have caught := (catchUp_keeps Config.machine s).enabled k
  obtain ⟨u, rfl | rfl, -, ch⟩ | ⟨off, v, word, e, rfl⟩ := exec_registers wf done
  · exact .inl (by rw [ch])
  · exact .inl (by rw [ch, caught])
  · have stored : (((catchUp Config.machine s).storeShadow off.toNat v).ch k).enabled = (s.ch k).enabled := by
      rw [← caught]; cases k <;> rfl
    rw [registerEffect_enabled e, stored]
    split_ifs with trigger
    · exact .inr ⟨rfl, v, trigger.2, by rw [word, trigger.1]⟩
    · exact .inl rfl

theorem decodeWrite_triggers {v : Byte} (triggered : 128 ≤ v.toNat) :
    decodeWrite 0x04#8 v = .wrCh1FreqhiTrig v ∧ decodeWrite 0x09#8 v = .wrCh2FreqhiTrig v := by
  have bit : v.getLsbD 7 = true := (triggerField_eq v).trans (decide_eq_true triggered)
  exact ⟨if_pos bit, if_pos bit⟩

/-- Settles O53: `enabled` is kept or set by the channel's trigger write. -/
theorem enabledIsSetOnlyByATrigger : Obligations.EnabledIsSetOnlyByATrigger := by
  intro i s t wf done
  have changed := exec_enabled wf done
  refine ⟨fun k before => ?_, fun before after => ?_, fun before after => ?_⟩
  · obtain same | ⟨set, -⟩ := changed k
    · rw [same, before]
    · exact set
  · obtain same | ⟨-, v, triggered, word⟩ := changed .one
    · exact absurd (same.symm.trans after) (by rw [ch_one, before]; decide)
    · exact ⟨v, word.trans (decodeWrite_triggers triggered).1⟩
  · obtain same | ⟨-, v, triggered, word⟩ := changed .two
    · exact absurd (same.symm.trans after) (by rw [ch_two, before]; decide)
    · exact ⟨v, word.trans (decodeWrite_triggers triggered).2⟩

/-! ### A stopped sweep -/

/-- `generate` changes no frequency and no period (R140, R141). -/
theorem generate_frequency (c : Config) (j : Chan) (a b : Nat) (s : State) (k : Chan) :
    ((generate c j a b s).ch k).frequency = (s.ch k).frequency ∧
      ((generate c j a b s).ch k).period = (s.ch k).period := by
  obtain ⟨es, _, _, _, shape, -, -⟩ := generate_shape c j a b s
  rw [shape]
  cases j <;> cases k <;> exact ⟨rfl, rfl⟩

theorem lengthSteps_frequency (s : State) (k : Chan) :
    ((lengthSteps s).ch k).frequency = (s.ch k).frequency ∧ ((lengthSteps s).ch k).period = (s.ch k).period := by
  obtain ⟨_, shape⟩ := lengthStep_shape (s.ch k)
  rw [lengthSteps_ch, shape]
  exact ⟨rfl, rfl⟩

theorem afterLengths_sweep (c : Config) (s : State) : (afterLengths c s).sweep = s.sweep := by
  simp [afterLengths, generate_time]

theorem afterLengths_frequency (c : Config) (s : State) (k : Chan) :
    ((afterLengths c s).ch k).frequency = (s.ch k).frequency ∧ ((afterLengths c s).ch k).period = (s.ch k).period := by
  simp [afterLengths, lengthSteps_frequency, generate_frequency]

/-- `t` has the sweep and channel 1's frequency and period of `s`. -/
structure SamePitch (s t : State) : Prop where
  sweep : t.sweep = s.sweep
  frequency : t.ch1.frequency = s.ch1.frequency
  period : t.ch1.period = s.ch1.period

/-- A tick leaves a stopped sweep and the pitch of channel 1 alone (R137, D21). -/
theorem sequencerTick_samePitch (c : Config) {s : State} (stopped : s.sweep.delay = 0) : SamePitch s (sequencerTick c s) := by
  have generated := afterLengths_frequency c s .one
  have sweep := afterLengths_sweep c s
  have still : sweepStep (afterLengths c s) = afterLengths c s :=
    sweepStep_of_stopped (.inr (.inr (by rw [sweep, stopped])))
  rw [sequencerTick_eq, still]
  split_ifs <;> exact ⟨sweep, generated.1, generated.2⟩

theorem catchUp_samePitch (c : Config) {s : State} (stopped : s.sweep.delay = 0) : SamePitch s (catchUp c s) := by
  refine catchUp_induction c ⟨rfl, rfl, rfl⟩ fun u same _ => ?_
  have tick := sequencerTick_samePitch c (s := u) (by rw [same.sweep, stopped])
  exact ⟨tick.sweep.trans same.sweep, tick.frequency.trans same.frequency, tick.period.trans same.period⟩

/-- Writes that are not channel 1's trigger keep the sweep's delay and working copy, and those to neither of its frequency
registers its pitch too (R96, R99, R100). -/
theorem registerEffect_sweep {off v : Byte} {effect : State → State} (e : RegisterEffect off v effect) (s : State)
    (notTrigger : ¬ (off = 0x04#8 ∧ 128 ≤ v.toNat)) :
    (effect s).sweep.delay = s.sweep.delay ∧ (effect s).sweep.shadowFrequency = s.sweep.shadowFrequency ∧
      (off ≠ 0x03#8 → off ≠ 0x04#8 →
        (effect s).ch1.frequency = s.ch1.frequency ∧ (effect s).ch1.period = s.ch1.period) := by
  cases e
  case freqLo1 => exact ⟨rfl, rfl, fun other => absurd rfl other⟩
  case freqHi1 =>
    have plain : v.toNat < 128 := Nat.not_le.mp fun triggered => notTrigger ⟨rfl, triggered⟩
    rw [writeFreqHi_plain .one plain]
    exact ⟨rfl, rfl, fun _ other => absurd rfl other⟩
  case freqHi2 =>
    unfold writeFreqHi
    split_ifs
    · rw [trigger_two]; exact ⟨rfl, rfl, fun _ _ => ⟨rfl, rfl⟩⟩
    · exact ⟨rfl, rfl, fun _ _ => ⟨rfl, rfl⟩⟩
  all_goals exact ⟨rfl, rfl, fun _ _ => ⟨rfl, rfl⟩⟩

/-- Settles O37: the catch-up by `catchUp_samePitch`, an instruction by the write it is. -/
theorem stoppedSweepStaysUntilTriggered : Obligations.StoppedSweepStaysUntilTriggered := by
  intro s stopped
  refine ⟨fun c => ?_, fun i t wf notTrigger done => ?_⟩
  · obtain ⟨sweep, frequency, period⟩ := catchUp_samePitch c stopped
    exact ⟨sweep, frequency, period⟩
  have caught := catchUp_samePitch Config.machine stopped
  obtain ⟨u, unchanged, sweep, ch⟩ | ⟨off, v, word, e, written⟩ := exec_registers wf done
  · have same : SamePitch s u := by
      obtain rfl | rfl := unchanged
      · exact ⟨rfl, rfl, rfl⟩
      · exact caught
    have ch1 : t.ch1 = u.ch1 := ch .one
    rw [sweep, same.sweep, ch1]
    exact ⟨stopped, rfl, fun _ => ⟨same.frequency, same.period⟩⟩
  · have plain : ¬ (off = 0x04#8 ∧ 128 ≤ v.toNat) := fun ⟨offset, triggered⟩ =>
      notTrigger v (by rw [word, offset, (decodeWrite_triggers triggered).1])
    obtain ⟨delay, workingCopy, pitch⟩ :=
      registerEffect_sweep e ((catchUp Config.machine s).storeShadow off.toNat v) plain
    rw [written, delay, workingCopy, storeShadow_sweep, caught.sweep]
    refine ⟨stopped, rfl, fun notFrequency => ?_⟩
    have notLow : off ≠ 0x03#8 := fun offset => (notFrequency v).1 (by rw [word, offset]; rfl)
    have notHigh : off ≠ 0x04#8 := fun offset => (notFrequency v).2 (by
      rw [word, offset]
      exact if_neg fun bit => plain ⟨offset, of_decide_eq_true ((triggerField_eq v).symm.trans bit)⟩)
    obtain ⟨frequency, period⟩ := pitch notLow notHigh
    exact ⟨frequency.trans caught.frequency, period.trans caught.period⟩

end Sys2Proof.Proofs
end

section

/-! O7, O9 to O12, O24 and O54, the reads and the gate. A READ word is `readOffset` at its offset (`exec_read_word`), which
records one byte of the caught-up state. -/

namespace Sys2Proof.Proofs

open Sys2Proof.Machine

/-! ### READ -/

/-- A read of the block records the register of its offset (R90, R91, R92). -/
theorem readOffset_inBlock (c : Config) {off : Byte} {s : State} (running : s.faulted = false)
    (inBlock : off.toNat ≤ 0x16) :
    readOffset c off s = .next ((catchUp c s).recordRead (regRead off.toNat (catchUp c s))) := by
  rw [readOffset_running c off running, if_pos inBlock]

/-- An address of the block is its offset (R41). -/
theorem busOffset_inBlock {c : Config} {addr : Nat} (from_ : c.base ≤ addr) (to_ : addr ≤ c.base + 0x16) :
    (busOffset c addr).toNat = addr - c.base := by
  rw [busOffset, if_pos ⟨from_, by omega⟩, BitVec.toNat_ofNat, Nat.mod_eq_of_lt (by omega)]

/-- Settles O7: the read and the accepted write at the address's offset. -/
theorem addressSelectsTheRegister : Obligations.AddressSelectsTheRegister := by
  intro addr v s running from_ to_
  have offset := busOffset_inBlock from_ to_
  have inBlock : (busOffset Config.machine addr).toNat ≤ 0x16 := by omega
  refine ⟨?_, fun power => ⟨_, (exec_write_word _ v s).trans
    (writeOffset_accepted _ v _ running inBlock (.inr power)), ?_⟩⟩
  · rw [← offset]
    exact (exec_read_word _ 0 s).trans (readOffset_inBlock _ running inBlock)
  · rw [(registerEffect_keeps (registerEffect_effectOf v inBlock) _).shadow, storeShadow_shadow,
      (catchUp_keeps _ s).shadow, offset]

/-- Settles O9: each row is the READ word of its offset, and a read there returns the stored byte. -/
theorem readReturnsTheShadowByte : Obligations.ReadReturnsTheShadowByte := by
  intro s running p row
  obtain ⟨word, plain, offset⟩ : decode (packWord 0 (BitVec.ofNat 8 p.2) 0) = p.1 ∧
      (BitVec.ofNat 8 p.2).toNat < 0x16 ∧ (BitVec.ofNat 8 p.2).toNat = p.2 := by
    revert row
    revert p
    decide
  have read := (exec_read_word (BitVec.ofNat 8 p.2) 0 s).trans (readOffset_stored Config.machine running plain)
  rw [word, offset] at read
  exact read

/-- The bits of the status byte: the stored nibble, two zeros, the two on bits (R92, D18). -/
theorem statusByte_bits : ∀ (stored : Byte) (on1 on2 : Bool),
    let b := (stored &&& 0xF0#8) ||| (if on2 then 0x02#8 else 0#8) ||| (if on1 then 0x01#8 else 0#8)
    b.toNat / 16 = stored.toNat / 16 ∧ b.getLsbD 3 = false ∧ b.getLsbD 2 = false ∧ b.getLsbD 1 = on2 ∧
      b.getLsbD 0 = on1 := by decide

/-- `on` as the statement has it: enabled, and not length-silenced (R17). -/
theorem on_iff (ch : Channel) : ch.on = true ↔ ch.enabled = true ∧ (ch.lengthEnabled = true → ch.length.toNat < 64) := by
  cases enabled : ch.lengthEnabled <;> simp [Channel.on, enabled]

/-- Settles O10: the byte is the status byte of the caught-up state. -/
theorem statusReadReturnsNibbleAndOnBits : Obligations.StatusReadReturnsNibbleAndOnBits := by
  intro s running
  obtain ⟨nibble, bit3, bit2, bit1, bit0⟩ := statusByte_bits (Memory.read (catchUp Config.machine s).shadow 0x16)
    (catchUp Config.machine s).ch1.on (catchUp Config.machine s).ch2.on
  refine ⟨statusByte (catchUp Config.machine s),
    readOffset_inBlock Config.machine (off := 0x16#8) running (by decide), ?_, bit3, bit2, ?_, ?_⟩
  · rw [← (catchUp_keeps Config.machine s).shadow]; exact nibble
  · rw [← on_iff, ← bit1]; rfl
  · rw [← on_iff, ← bit0]; rfl

/-- Settles O11: a read is its catch-up, whose frame is `CatchUpKeeps`, and the byte recorded. -/
theorem readChangesOnlyWhatTheCatchUpDoes : Obligations.ReadChangesOnlyWhatTheCatchUpDoes := by
  intro off data s t done
  rw [exec_read_word] at done
  obtain ⟨-, b, rfl⟩ := readOffset_next done
  have kept := catchUp_keeps Config.machine s
  have ch (k : Chan) : ((catchUp Config.machine s).recordRead b).ch k = (catchUp Config.machine s).ch k := by
    cases k <;> rfl
  have port (k : Chan) : ((catchUp Config.machine s).recordRead b).port k = (catchUp Config.machine s).port k := by
    cases k <;> rfl
  refine ⟨kept.poweredOn, fun o => congrArg (Memory.read · o) kept.shadow, kept.virtualTime, kept.masterLeft,
    kept.masterRight, kept.faulted, kept.sinkChunks, kept.commands, kept.sweepPeriod, kept.sweepShift,
    kept.sweepDirection, fun k => ?_, ⟨b, congrArg (· ++ [b]) kept.readResults⟩, fun notDue => ?_⟩
  · rw [ch, port]
    exact ⟨kept.enabled k, kept.duty k, kept.lengthEnabled k, kept.envPeriod k, kept.envDirection k,
      kept.initialVolume k, kept.samplesRead k⟩
  · rw [catchUp_of_not_due _ notDue]; rfl

/-- What a register reads as does not depend on what has been read before. -/
theorem regRead_recordRead (o : Nat) (s : State) (b : Byte) : regRead o (s.recordRead b) = regRead o s := rfl

/-- Settles O12: after the first read no tick is due, and its own record is no register. -/
theorem repeatedReadReturnsTheSameByte : Obligations.RepeatedReadReturnsTheSameByte := by
  intro off s t u first second
  have running := (exec_next_cases first).1
  have runningAgain := (exec_next_cases second).1
  rw [exec_read_word, readOffset_running _ off running] at first
  cases first
  have caught := catchUp_exit Config.machine s
  rw [exec_read_word, readOffset_running _ off runningAgain, catchUp_of_not_due _ (s := State.recordRead _ _) caught,
    regRead_recordRead] at second
  cases second
  exact ⟨_, by rw [recordRead_readResults, (catchUp_keeps _ s).readResults], rfl⟩

/-- Settles O24: the byte is stored in the canonical block, and neither decoding nor a later catch-up touches it. -/
theorem writtenByteReadsBack : Obligations.WrittenByteReadsBack := by
  intro off off' v s t u canonical power inBlock plain wrote read
  have caught := catchUp_keeps Config.machine s
  have running := (exec_next_cases wrote).1
  have stillRunning := (exec_next_cases read).1
  rw [exec_write_word, writeOffset_accepted _ v _ running inBlock.le (.inr power)] at wrote
  rw [exec_read_word, readOffset_stored _ stillRunning plain] at read
  have kept := registerEffect_keeps (registerEffect_effectOf v inBlock.le)
    ((catchUp Config.machine s).storeShadow off.toNat v)
  cases wrote
  cases read
  rw [recordRead_readResults, (catchUp_keeps _ _).readResults, kept.readResults, storeShadow_readResults,
    caught.readResults, kept.shadow, storeShadow_shadow, caught.shadow, read_write canonical]
  simp only [BitVec.toNat_inj]

/-! ### Powered off -/

/-- Settles O54: with nothing due each operation is gated, or records a byte only. -/
theorem poweredOffTimeStandsStill : Obligations.PoweredOffTimeStandsStill := by
  intro i s t off notDue notPower notFlush done
  have running := (exec_next_cases done).1
  have still : catchUp Config.machine s = s := catchUp_of_not_due _ notDue
  obtain ⟨n, rfl⟩ | isFlush | ⟨o, reads⟩ | ⟨o, v, effect, power, writes⟩ := exec_operation_cases i
  · rw [exec_adv_running n running, advanceTime, if_neg (by simp [off])] at done
    cases done; rfl
  · exact absurd isFlush notFlush
  · rw [reads] at done
    obtain ⟨-, b, rfl⟩ := readOffset_next done
    rw [still]; rfl
  · have blocked : ¬ (o.toNat ≤ 0x16 ∧ (o.toNat = 0x16 ∨ s.poweredOn = true)) := fun ⟨_, open_⟩ =>
      open_.elim (fun atPower => notPower v (power atPower)) (by simp [off])
    rw [writes, writeOffset_blocked _ v effect running blocked, still] at done
    cases done; rfl

end Sys2Proof.Proofs
end

section

/-! O28, an ADVANCE of any length (R79). The words of a list of ticks, run one by one, add their sum. -/

namespace Sys2Proof.Proofs

open Sys2Proof.Machine

/-- A run begins with its first step. -/
theorem run_succ (M : Host.Core) {n : Nat} {s s' : M.State} (stepped : M.step s = .next s') :
    M.run (n + 1) s = M.run n s' := by
  rw [Host.Core.run, stepped]

/-- The words of advances of at most 65535 ticks each add the sum of their ticks. -/
theorem run_advances {ticks : List Nat} (fit : ∀ n ∈ ticks, n ≤ 65535) :
    ∀ {s : State}, s.faulted = false → s.poweredOn = true →
      Sys2Proof.core.run (ticks.map packAdvance).length ({ s with commands := ticks.map packAdvance } : State) =
        .next ({ s with commands := [], virtualTime := s.virtualTime + ticks.sum } : State) := by
  induction ticks with
  | nil => intro s _ _; rfl
  | cons n ticks ih =>
    intro s running power
    have stepped : Sys2Proof.core.step ({ s with commands := (n :: ticks).map packAdvance } : State) =
        .next ({ s with commands := ticks.map packAdvance, virtualTime := s.virtualTime + n } : State) := by
      refine (step_cons (s := { s with commands := (n :: ticks).map packAdvance }) rfl).trans ?_
      rw [decode_packAdvance (fit n List.mem_cons_self)]
      exact (exec_adv_running (s := { s with commands := ticks.map packAdvance }) n running).trans
        (congrArg _ (if_pos power))
    have rest := ih (fun m hm => fit m (List.mem_cons_of_mem n hm)) (s := { s with virtualTime := s.virtualTime + n })
      running power
    rw [List.sum_cons, ← Nat.add_assoc]
    exact (run_succ Sys2Proof.core stepped).trans rest

/-- The ticks of the words of an ADVANCE of `n` (R79, D26). -/
def advanceTicks (n : Nat) : List Nat :=
  if n ≤ 65535 then [n] else List.replicate (n / 65535) 65535 ++ if n % 65535 = 0 then [] else [n % 65535]

theorem advance_words (c : Config) (n : Nat) : (HostOp.advance n).words c = (advanceTicks n).map packAdvance := by
  simp only [HostOp.words, advanceTicks, advanceWords]
  split_ifs <;> simp

theorem advanceTicks_le {n m : Nat} (h : m ∈ advanceTicks n) : m ≤ 65535 := by
  unfold advanceTicks at h
  split_ifs at h with short exact
  · rw [List.mem_singleton.mp h]; exact short
  · rw [List.append_nil] at h
    rw [List.eq_of_mem_replicate h]
  · obtain full | rest := List.mem_append.mp h
    · rw [List.eq_of_mem_replicate full]
    · rw [List.mem_singleton.mp rest]; omega

theorem advanceTicks_sum (n : Nat) : (advanceTicks n).sum = n := by
  unfold advanceTicks
  split_ifs <;> simp <;> omega

/-- Settles O28: by the words' ticks, each of which fits and whose sum is `n`. -/
theorem longAdvanceIsSplitExactly : Obligations.LongAdvanceIsSplitExactly := by
  intro n s running power ws
  have words : ws = (advanceTicks n).map packAdvance := advance_words Config.machine n
  have ran := run_advances (ticks := advanceTicks n) (fun _ => advanceTicks_le) running power
  rw [advanceTicks_sum] at ran
  rw [words]
  exact ran

end Sys2Proof.Proofs
end

section

/-! O41 to O44, FLUSH and the mix (R185, R191 to R196, R210). A mix of equally many samples is said once: its chunks, and
the state that has read every sample. -/

namespace Sys2Proof.Proofs

open Sys2Proof.Machine

/-- A mix of ports with equally many unread samples delivers the mixed pairs in chunks, reads every sample, and changes
nothing else (R195, R196). -/
theorem mix_delivers (c : Config) {s : State} (equal : samplesAvail c .one s = samplesAvail c .two s) :
    ∃ chunks : List Chunk,
      mix c s = .next { s with
        sinkChunks := s.sinkChunks ++ chunks
        acc1 := { s.acc1 with samplesRead := s.acc1.samplesRead + samplesAvail c .one s }
        acc2 := { s.acc2 with samplesRead := s.acc2.samplesRead + samplesAvail c .two s } } ∧
      chunks.flatten = List.zipWith (mixSample c (leftSide c s) (rightSide c s)) (unreadSamples c .one s)
        (unreadSamples c .two s) ∧
      (∀ ch ∈ chunks, 1 ≤ ch.length ∧ ch.length ≤ c.chunk) ∧ ∀ ch ∈ chunks.dropLast, ch.length = c.chunk := by
  obtain ⟨-, mixed⟩ | ⟨unequal, -⟩ := mix_cases c s
  · obtain ⟨⟨chunks, a, b, shape⟩, read⟩ := mix_next mixed
    have all (k : Chan) : samplesAvail c k s = samplesAvail c .one s := by
      cases k
      · rfl
      · exact equal.symm
    obtain ⟨delivered, sink, flat, sizes, full⟩ :=
      deliverLoop_chunks c (leftSide c s) (rightSide c s) _ _ s le_rfl all
    have sameChunks : chunks = delivered := by
      rw [shape] at sink
      exact List.append_cancel_left sink
    have read1 : a = s.acc1.samplesRead + samplesAvail c .one s := by
      have := read .one; rw [shape] at this; exact this
    have read2 : b = s.acc2.samplesRead + samplesAvail c .two s := by
      have := read .two; rw [shape] at this; exact this
    refine ⟨delivered, ?_, flat, sizes, full⟩
    rw [mixed, shape, sameChunks, read1, read2]
  · exact absurd equal unequal

/-- A due FLUSH on a running unit mixes the closed state (R185). -/
theorem flushOp_due {c : Config} {s : State} (running : s.faulted = false) (due : c.outputPeriod ≤ s.virtualTime) :
    flushOp c s = mix c (closeFrames c s) :=
  (operate_running running).trans (if_pos due)

/-- Settles O41: the branch of a FLUSH that is not due. -/
theorem flushNotDueDoesNothing : Obligations.FlushNotDueDoesNothing := by
  intro s running early
  change flushOp Config.machine s = .next s
  rw [flushOp, operate_running running, if_neg (Nat.not_le.mpr early)]

/-- Settles O42: the mix of the closed state, whose ports and sides the rebase does not touch. -/
theorem flushDueClosesRebasesAndDelivers : Obligations.FlushDueClosesRebasesAndDelivers := by
  intro s running due u closed equal
  have kept := catchUp_keeps Config.machine s
  obtain ⟨chunks, mixed, flat, sizes, full⟩ :=
    mix_delivers Config.machine (s := closeFrames Config.machine s) equal
  refine ⟨chunks, ((flushOp_due running due).trans mixed).trans ?_, flat, sizes, full⟩
  rw [← kept.virtualTime, ← kept.sinkChunks]
  rfl

/-- Settles O44: the mix of the closed state faults before it reads or delivers anything. -/
theorem unequalSampleCountsFault : Obligations.UnequalSampleCountsFault := by
  refine ⟨fun _ => rfl, ?_⟩
  intro c s running due u closed n1 n2 unequal
  refine ⟨?_, fun f _ => by cases f; rfl⟩
  obtain ⟨equal, -⟩ | ⟨-, faults⟩ := mix_cases c (closeFrames c s)
  · exact absurd equal unequal
  · refine ((flushOp_due running due).trans faults).trans ?_
    rw [← (catchUp_keeps c s).virtualTime]
    rfl

/-! ### The gains (R194, R195) -/

/-- A routing bit as a factor. -/
def routeFactor (b : Bool) : Rat := if b then 1 else 0

/-- The gain of a side by its routing bits and its volume (R194). -/
def routedGain (r1 r2 : Bool) (vol : BitVec 3) : Rat :=
  if r1 = false ∧ r2 = false then 0 else (vol.toNat : Rat) / (210 * (routeFactor r1 + routeFactor r2))

theorem sideGain_routed (r1 r2 : Bool) (vol : BitVec 3) : sideGain (bit01 r1 + bit01 r2) vol = routedGain r1 r2 vol := by
  have two : (1 : Rat) + 1 = 2 := by norm_num
  cases r1 <;> cases r2 <;> simp [sideGain_eq, routedGain, routeFactor, bit01, two]

theorem bit01_eq_routeFactor (b : Bool) : (bit01 b : Rat) = routeFactor b := by
  cases b <;> simp [bit01, routeFactor]

/-- One side of the mix by its routing bits and its volume (R194, R195). -/
theorem mixSide_makeSide (r1 r2 : Bool) (vol : BitVec 3) (x y : Rat) :
    mixSide (makeSide r1 r2 vol) x y =
      routeFactor r1 * routedGain r1 r2 vol * x + routeFactor r2 * routedGain r1 r2 vol * y := by
  rw [mixSide, makeSide, sideGain_routed, bit01_eq_routeFactor, bit01_eq_routeFactor]

/-- The routing bits of the two sides by the nibble that holds them (R69). -/
theorem route_nibbles (high : Bool) (m : Byte) :
    routeLeft high m .one = m.getLsbD (if high then 4 else 0) ∧
      routeLeft high m .two = m.getLsbD ((if high then 4 else 0) + 1) ∧
      routeRight high m .one = m.getLsbD (if high then 0 else 4) ∧
      routeRight high m .two = m.getLsbD ((if high then 0 else 4) + 1) := by
  cases high <;> exact ⟨rfl, rfl, rfl, rfl⟩

/-- Settles O43: the chunks of `mix_delivers`, the mixed pair written out by its gains. -/
theorem mixDeliversTheMixedSamplesInChunks : Obligations.MixDeliversTheMixedSamplesInChunks := by
  intro c s equal m hi lo one gain side
  obtain ⟨chunks, mixed, flat, sizes, full⟩ := mix_delivers c equal
  obtain ⟨left1, left2, right1, right2⟩ := route_nibbles c.leftIsHigh m
  have sample : mixSample c (leftSide c s) (rightSide c s) =
      fun x y => (c.roundSample (side hi s.masterVolumeLeft x y), c.roundSample (side lo s.masterVolumeRight x y)) := by
    funext x y
    rw [mixSample, leftSide, rightSide, mixSide_makeSide, mixSide_makeSide, left1, left2, right1, right2]
    rfl
  rw [sample] at flat
  exact ⟨_, chunks, mixed, rfl, flat, sizes, full⟩

end Sys2Proof.Proofs
end

section

/-! O47 and O48, the state after reset (R27, R231). -/

namespace Sys2Proof.Proofs

open Sys2Proof.Machine

/-- Settles O47, field by field; the two channels and the two ports alike. -/
theorem resetState : Obligations.ResetState :=
  ⟨rfl, fun _ => rfl, rfl, rfl, rfl, rfl, rfl, rfl, fun k => by cases k <;> rfl, rfl, rfl, fun k => by cases k <;> rfl, rfl,
    rfl, rfl⟩

theorem channelOk_reset : Channel.reset.Ok where
  length := by decide
  frequency := by decide
  period := rfl
  delay := by decide
  levelLow := by decide
  levelHigh := by decide

/-- The decoded fields at reset are those of a block that reads 0x00, on either side of LEFT_IS_HIGH (log 11). -/
theorem mirrors_reset (c : Config) : Mirrors c State.reset where
  power := rfl
  left := by cases h : c.leftIsHigh <;> rfl
  right := by cases h : c.leftIsHigh <;> rfl
  sweepPeriod := rfl
  sweepDirection := rfl
  sweepShift := rfl
  channel1 := ⟨rfl, rfl, rfl, rfl, rfl⟩
  channel2 := ⟨rfl, rfl, rfl, rfl, rfl⟩

/-- Settles O48: each part of the invariant at the reset values. -/
theorem invariantAtReset : Obligations.InvariantAtReset := fun c =>
  { running := rfl
    shadow := ⟨rfl, rfl⟩
    time := ⟨rfl, le_rfl⟩
    mirrors := mirrors_reset c
    sweep := ⟨by decide, fun running => absurd rfl running⟩
    channels := fun k => by cases k <;> exact channelOk_reset
    ports := fun k => by cases k <;> exact ⟨rfl, ⟨0, rfl, le_rfl⟩, rfl⟩
    frames := rfl }

end Sys2Proof.Proofs
end
